-- ==== Sys2Proof/Word.lean ====
section
/-! DEFINITION. The two word types of the vmtest core (spec/00_scope.md R6, R8). -/

namespace Sys2Proof

/-- DATA_WIDTH: every register but the program counter, every memory cell and every bus transfer (R6). -/
abbrev Byte := BitVec 8

/-- ADDR_WIDTH: the program counter and every bus address; arithmetic wraps modulo 65536 (R6, R9). -/
abbrev Address := BitVec 16

end Sys2Proof
end

