-- ==== Sys2Proof/Syntax.lean ====
section
/-! DEFINITION. The instructions: one constructor per row of spec/opcode_table.json (spec/30_encoding.md R96), in the
table's order, with the operand values of R97. -/

namespace Sys2Proof

/-- The thirteen instructions (R96). -/
inductive Instr where
  | halt
  | inx
  | iny
  | ldaImmediate (imm8 : Byte)
  | ldaAbsX (addr16 : Address)
  | ldxImmediate (imm8 : Byte)
  | ldyImmediate (imm8 : Byte)
  | staAbs (addr16 : Address)
  | jmpAbs (addr16 : Address)
  | cpx (imm8 : Byte)
  | cmp (imm8 : Byte)
  | bne (rel8 : Byte)
  | beq (rel8 : Byte)
deriving DecidableEq, Repr

/-- The five formats (R90 to R95). -/
inductive Format where
  | imp
  | imm
  | abs
  | absx
  | rel
deriving DecidableEq, Repr

end Sys2Proof
end

