-- ==== Sys2Proof/Decode.lean ====
section
/-! DEFINITION. The encoding (spec/30_encoding.md): the decoder, total on any three bytes, and after it the encoder
written from the same rules. -/

namespace Sys2Proof

/-- The Format column of R96. -/
def Instr.format : Instr → Format
  | .halt => .imp
  | .inx => .imp
  | .iny => .imp
  | .ldaImmediate _ => .imm
  | .ldaAbsX _ => .absx
  | .ldxImmediate _ => .imm
  | .ldyImmediate _ => .imm
  | .staAbs _ => .abs
  | .jmpAbs _ => .abs
  | .cpx _ => .imm
  | .cmp _ => .imm
  | .bne _ => .rel
  | .beq _ => .rel

/-- How many bytes follow the opcode (R91 to R95). -/
def Format.operandBytes : Format → Nat
  | .imp => 0
  | .imm => 1
  | .abs => 2
  | .absx => 2
  | .rel => 1

/-- The Length column of R96. -/
def Instr.length (i : Instr) : Nat := 1 + i.format.operandBytes

/-- The Mnemonic column of R96. -/
def Instr.mnemonic : Instr → String
  | .halt => "HALT"
  | .inx => "INX"
  | .iny => "INY"
  | .ldaImmediate _ => "LDA_IMMEDIATE"
  | .ldaAbsX _ => "LDA_ABS_X"
  | .ldxImmediate _ => "LDX_IMMEDIATE"
  | .ldyImmediate _ => "LDY_IMMEDIATE"
  | .staAbs _ => "STA_ABS"
  | .jmpAbs _ => "JMP_ABS"
  | .cpx _ => "CPX"
  | .cmp _ => "CMP"
  | .bne _ => "BNE"
  | .beq _ => "BEQ"

/-- A 16-bit quantity from its two bytes, low byte at the lower address (spec/20_memory.md R62; R97 `addr16`). -/
def littleEndian (low high : Byte) : Address := high ++ low

/-- `v[7:0]` (R8). -/
def lowByte (v : Address) : Byte := v.extractLsb' 0 8

/-- `v[15:8]` (R8). -/
def highByte (v : Address) : Byte := v.extractLsb' 8 8

/-- Why the decoder rejects: the opcode byte is one of the 243 illegal ones (R99). -/
inductive DecodeError where
  | illegalOpcode (op : Byte)
deriving DecidableEq, Repr

/-- The format an opcode byte announces, `none` for an illegal one. The length of an instruction is a function of its
opcode byte alone (R98). -/
def formatOf (op : Byte) : Option Format :=
  match op with
  | 0x00#8 => some .imp
  | 0xE8#8 => some .imp
  | 0xC8#8 => some .imp
  | 0xA9#8 => some .imm
  | 0xBD#8 => some .absx
  | 0xA2#8 => some .imm
  | 0xA0#8 => some .imm
  | 0x8D#8 => some .abs
  | 0x4C#8 => some .abs
  | 0xE0#8 => some .imm
  | 0xC9#8 => some .imm
  | 0xD0#8 => some .rel
  | 0xF0#8 => some .rel
  | _ => none

/-- The thirteen-way match on the full opcode byte (R96; spec/40_step_cycle.md R121, R122) with the operands of R97.
The bytes an instruction does not have are not looked at. -/
def decode (op b1 b2 : Byte) : Except DecodeError Instr :=
  match op with
  | 0x00#8 => .ok .halt
  | 0xE8#8 => .ok .inx
  | 0xC8#8 => .ok .iny
  | 0xA9#8 => .ok (.ldaImmediate b1)
  | 0xBD#8 => .ok (.ldaAbsX (littleEndian b1 b2))
  | 0xA2#8 => .ok (.ldxImmediate b1)
  | 0xA0#8 => .ok (.ldyImmediate b1)
  | 0x8D#8 => .ok (.staAbs (littleEndian b1 b2))
  | 0x4C#8 => .ok (.jmpAbs (littleEndian b1 b2))
  | 0xE0#8 => .ok (.cpx b1)
  | 0xC9#8 => .ok (.cmp b1)
  | 0xD0#8 => .ok (.bne b1)
  | 0xF0#8 => .ok (.beq b1)
  | _ => .error (.illegalOpcode op)

/-- The decoder on a string of bytes in ascending address order; a byte past the end of the string reads 0. -/
def decodeBytes (bytes : List Byte) : Except DecodeError Instr :=
  decode (bytes.getD 0 0#8) (bytes.getD 1 0#8) (bytes.getD 2 0#8)

/-- Byte `k` of a number whose bit 0 is the least significant bit of the first byte. -/
def byteOf (w k : Nat) : Byte := BitVec.ofNat 8 (w / 256 ^ k)

/-- The bytes of a table word: the first `nbits` bits of `w`, every bit above them 0, up to the longest instruction. -/
def tableBytes (nbits w : Nat) : List Byte :=
  [byteOf (w % 2 ^ nbits) 0, byteOf (w % 2 ^ nbits) 1, byteOf (w % 2 ^ nbits) 2]

/-- The instruction the decoder reads from a word of the opcode table. -/
def decodeTableWord (nbits w : Nat) : Option Instr :=
  match decodeBytes (tableBytes nbits w) with
  | .ok i => some i
  | .error _ => none

/-- The bytes of an instruction in ascending address order (R91 to R96). -/
def encode : Instr → List Byte
  | .halt => [0x00#8]
  | .inx => [0xE8#8]
  | .iny => [0xC8#8]
  | .ldaImmediate imm8 => [0xA9#8, imm8]
  | .ldaAbsX addr16 => [0xBD#8, lowByte addr16, highByte addr16]
  | .ldxImmediate imm8 => [0xA2#8, imm8]
  | .ldyImmediate imm8 => [0xA0#8, imm8]
  | .staAbs addr16 => [0x8D#8, lowByte addr16, highByte addr16]
  | .jmpAbs addr16 => [0x4C#8, lowByte addr16, highByte addr16]
  | .cpx imm8 => [0xE0#8, imm8]
  | .cmp imm8 => [0xC9#8, imm8]
  | .bne rel8 => [0xD0#8, rel8]
  | .beq rel8 => [0xF0#8, rel8]

end Sys2Proof
end

