-- ==== Sys2Proof/Config.lean ====
section
/-! DEFINITION. What the architecture fixes (spec/00_scope.md R6), what a launch chooses (R7), and the free
values, which nothing in Lean can evaluate (log 5, log 12). -/

namespace Sys2Proof

/-- RESET_VECTOR_ADDR: the low byte of the reset vector (R6); the high byte lies one above. -/
abbrev Config.resetVectorAddr : Address := 0xFFFC#16

/-- MEM_SIZE: the number of byte cells (R6). -/
abbrev Config.memSize : Nat := 65536

/-- FLAG_BIT_C, FLAG_BIT_Z, FLAG_BIT_N: where the status byte holds each live flag. The spec leaves the three open
(R7; spec/10_state.md R27), so they are an argument of every view of the byte, never a constant (log 3). -/
structure Config.FlagBits where
  c : Fin 8
  z : Fin 8
  n : Fin 8
deriving DecidableEq, Repr

/-- The range of addresses a device claims, both ends included (spec/20_memory.md R56). -/
structure AddressRange where
  first : Address
  last : Address
deriving DecidableEq, Repr

/-- The one address the character sink claims (spec/60_exceptions.md R214). -/
abbrev Config.sinkRange : AddressRange := { first := 0xC000#16, last := 0xC000#16 }

/-- The read hook of the platform's device `id` (spec/20_memory.md R57): from the code of its private state and the
address, the new state, the byte, and whether it handled the read. DESIGN CHOICE, safe: no body, so that a claim holds
whatever the device does (log 5). -/
opaque Config.customRead (id : Nat) (data : Nat) (address : Address) : Nat × Byte × Bool

/-- The write hook of the platform's device `id` (spec/20_memory.md R58): the state the device is left in, and its
handled result, or `none` for IOFailure. DESIGN CHOICE, safe: no body (log 5, log 9). -/
opaque Config.customWrite (id : Nat) (data : Nat) (address : Address) (value : Byte) : Nat × Option Bool

/-- Whether a device that answered the fetch of a HALT byte keeps what its read hook did. The spec gives two answers:
spec/41_halt.md R140 and the Halt row of spec/60_exceptions.md R207 leave `dev_state` unchanged, while
spec/20_memory.md R52 writes the hook's new state and spec/10_state.md R34 knows no other access to it. DESIGN CHOICE,
safe: no body, so that a claim holds under either answer (log 12). -/
opaque Config.haltKeepsFetch : Bool

/-- A device as the host gives it to Construct (R7 DEVICES). -/
inductive DeviceSpec where
  /-- The reference character sink (spec/60_exceptions.md R214). -/
  | charOut
  /-- Any other device of the platform: which one, the range it claims, the code of its initial state. -/
  | custom (id : Nat) (range : AddressRange) (init : Nat)
deriving DecidableEq, Repr

/-- `address_range()` (spec/20_memory.md R56). -/
def DeviceSpec.range : DeviceSpec → AddressRange
  | .charOut => Config.sinkRange
  | .custom _ range _ => range

/-- The parameters of one launch (R7): what Construct and LoadRom are given, and the values the spec leaves open. -/
structure Launch where
  resetVector : Address
  devices : List DeviceSpec
  initA : Byte
  initX : Byte
  initY : Byte
  initSP : Byte
  initP : Byte
  flagBits : Config.FlagBits
  /-- SINK_FAILS as the list of the write ordinals that fail (log 6). -/
  sinkFails : List Nat
  romBase : Address
  rom : List Byte
deriving DecidableEq, Repr

end Sys2Proof
end

