-- ==== Sys2Proof/Machine/State.lean ====
section
/-! DEFINITION. The state of the machine as plain data (spec/10_state.md R20), the reasons a step can stop, and the
state after reset. -/

namespace Sys2Proof.Machine

/-- The status register `P` (R27): the three live flags and the five dormant bits, position-free as R27 allows; its
byte, for any positions of the flags, is `Status.toByte` (log 3). -/
structure Status where
  carry : Bool
  zero : Bool
  negative : Bool
  /-- The dormant bits in ascending order of their positions. -/
  dormant : BitVec 5
deriving DecidableEq, Repr

/-- Why a machine is FAULTED, with the value the stop records (spec/60_exceptions.md R200 to R202). -/
inductive FaultCause where
  /-- The offending byte and the address it was fetched from (R201). -/
  | illegalOpcode (op : Byte) (address : Address)
  /-- The address written and the byte (R202). -/
  | deviceIOFailure (address : Address) (value : Byte)
deriving DecidableEq, Repr

/-- The stop causes (R200). -/
inductive StopCause where
  | halt
  | fault (cause : FaultCause)
deriving DecidableEq, Repr

/-- The run-state latch (R31). -/
inductive RunState where
  | running
  | halted
  | faulted (cause : FaultCause)
deriving DecidableEq, Repr

/-- A device on the bus with its private state `dev_state[k]` (R34). -/
inductive Device where
  /-- The character sink: the bytes emitted so far, oldest first, and the count of writes so far (R214). -/
  | charOut (out : List Byte) (n : Nat)
  /-- The platform's device `id`: the range it claims and the code of its private state (log 5). -/
  | custom (id : Nat) (range : AddressRange) (data : Nat)
deriving DecidableEq, Repr

/-- The store: the cells that differ from what an unlisted address reads as, addresses strictly rising
(`Memory.wf`). -/
abbrev Memory := List Host.Cell

/-- The whole state (R20). -/
structure State where
  /-- The address of the next instruction's opcode byte (R24). -/
  pc : Address
  /-- `x[A]` (R21). -/
  a : Byte
  /-- `x[X]` (R21). -/
  x : Byte
  /-- `x[Y]` (R21). -/
  y : Byte
  /-- `x[SP]` (R22). -/
  sp : Byte
  /-- `P` (R27). -/
  status : Status
  /-- `run_state` (R31). -/
  runState : RunState
  /-- `mem` (R32). -/
  mem : Memory
  /-- The devices in registration order: their ranges are `devmap` (R33, log 4), their data `dev_state` (R34). -/
  devices : List Device
  /-- The environment input SINK_FAILS (spec/00_scope.md R7): the write ordinals that fail (log 6). -/
  sinkFails : List Nat
deriving DecidableEq, Repr

/-- No step ends in a host fault: every stop the spec describes is a next state in which `run_state` says so
(spec/60_exceptions.md R200, R203), and no address lies outside the address space (spec/20_memory.md R51). Safe: nobody
raises a fault, so no claim can lean on one (log 7). -/
inductive Fault where
deriving DecidableEq, Repr

/-- Operations that are turned away whole and change nothing (spec/60_exceptions.md R204). -/
inductive Refusal where
  /-- An arm of `exec` without a meaning; safe, and no arm answers it. -/
  | notModelled (mnemonic : String)
  /-- `step` on a machine whose `run_state` is not RUNNING (spec/40_step_cycle.md R120); safe: the spec refuses the
  call. -/
  | notRunning
  /-- `loadRom` past 0xFFFF (spec/20_memory.md R61); safe: the spec refuses the call. -/
  | loadPastEnd
  /-- `construct` with an ill-formed configuration (spec/20_memory.md R60; spec/00_scope.md R7); safe: the spec refuses
  the call. -/
  | illFormedConfiguration
deriving DecidableEq, Repr

/-- The machine right after Construct on the reference platform (spec/10_state.md R36; spec/70_reset_and_hazards.md
R246): the vector holds 0x8000 and `pc` has been loaded from it; every other cell is 0x00, so only 0xFFFD is listed;
the sink has emitted nothing. The registers and the status, which the spec leaves open (INIT_A to INIT_P), are zero:
DESIGN CHOICE, unsafe (log 1); the reference launch itself is log 2. -/
def State.reset : State :=
  { pc := 0x8000#16
    a := 0#8
    x := 0#8
    y := 0#8
    sp := 0#8
    status := { carry := false, zero := false, negative := false, dormant := 0#5 }
    runState := .running
    mem := [(0xFFFD, 0x80#8)]
    devices := [.charOut [] 0]
    sinkFails := [] }

end Sys2Proof.Machine
end

