-- ==== Sys2Proof/WellFormed.lean ====
section
/-! DEFINITION. What makes an instruction and a launch well formed. Every operand value of every instruction is legal
(spec/30_encoding.md R100), so the checks that can refuse something are those of a launch: the ranges of its devices
(spec/20_memory.md R60) and the positions of its flags (spec/00_scope.md R7). -/

namespace Sys2Proof

/-- R100: "every `imm8`, `addr16` and `rel8` value is legal". -/
def Instr.wf : Instr → Bool
  | .halt => true
  | .inx => true
  | .iny => true
  | .ldaImmediate _ => true
  | .ldaAbsX _ => true
  | .ldxImmediate _ => true
  | .ldyImmediate _ => true
  | .staAbs _ => true
  | .jmpAbs _ => true
  | .cpx _ => true
  | .cmp _ => true
  | .bne _ => true
  | .beq _ => true

/-- Whether a range claims an address. -/
def AddressRange.contains (r : AddressRange) (a : Address) : Bool :=
  decide (r.first ≤ a) && decide (a ≤ r.last)

/-- R60 a: the range is not inverted. -/
def AddressRange.ordered (r : AddressRange) : Bool := decide (r.first ≤ r.last)

/-- R60 b (spec/70_reset_and_hazards.md R234): the range claims neither byte of the reset vector. -/
def AddressRange.avoidsVector (r : AddressRange) : Bool :=
  !r.contains Config.resetVectorAddr && !r.contains (Config.resetVectorAddr + 1#16)

/-- R60: both conditions. -/
def AddressRange.wf (r : AddressRange) : Bool := r.ordered && r.avoidsVector

/-- R7: the three positions are pairwise distinct. -/
def Config.FlagBits.wf (fb : Config.FlagBits) : Bool :=
  decide (fb.c ≠ fb.z) && decide (fb.c ≠ fb.n) && decide (fb.z ≠ fb.n)

/-- A launch the spec gives a meaning to. -/
def Launch.wf (l : Launch) : Bool :=
  l.devices.all (fun d => d.range.wf) && l.flagBits.wf

end Sys2Proof
end

