-- ==== Sys2Proof/Machine/Ops.lean ====
section
/-! DEFINITION. The named operations over memory, registers, devices and the bus (spec/20_memory.md), taking a stop,
and the reset that alone leaves one. -/

namespace Sys2Proof.Machine

/-! ### The store -/

/-- What an unlisted address reads as: the store is "zero-initialized at creation" (spec/10_state.md R32). -/
def Memory.unlisted : Byte := 0#8

/-- The cell at a numeric address. -/
def Memory.readNat (m : Memory) (a : Nat) : Byte :=
  match m with
  | [] => Memory.unlisted
  | (k, v) :: rest => if k = a then v else Memory.readNat rest a

/-- The store with the cell at a numeric address replaced, in canonical form: a cell that holds what an unlisted
address reads as is not listed. -/
def Memory.writeNat (m : Memory) (a : Nat) (v : Byte) : Memory :=
  match m with
  | [] => if v = Memory.unlisted then [] else [(a, v)]
  | (k, w) :: rest =>
    if a < k then (if v = Memory.unlisted then (k, w) :: rest else (a, v) :: (k, w) :: rest)
    else if a = k then (if v = Memory.unlisted then rest else (a, v) :: rest)
    else (k, w) :: Memory.writeNat rest a v

/-- `RawRead(a)` (spec/00_scope.md R11). -/
def Memory.read (m : Memory) (a : Address) : Byte := Memory.readNat m a.toNat

/-- `RawWrite(a, v)` (spec/00_scope.md R11). -/
def Memory.write (m : Memory) (a : Address) (v : Byte) : Memory := Memory.writeNat m a.toNat v

/-- Canonical form from address `low` on. -/
def Memory.wfFrom (low : Nat) : Memory → Bool
  | [] => true
  | (k, v) :: rest =>
    decide (low ≤ k) && decide (k < Config.memSize) && decide (v ≠ Memory.unlisted) && Memory.wfFrom (k + 1) rest

/-- The canonical form: addresses strictly rising and inside the address space, no entry equal to what an unlisted
address reads as. -/
def Memory.wf (m : Memory) : Bool := Memory.wfFrom 0 m

/-- The copy of `Load(a, bytes)` (spec/20_memory.md R61); the check of its bound is `loadRom`'s. -/
def Memory.load (m : Memory) (a : Address) : List Byte → Memory
  | [] => m
  | b :: rest => Memory.load (m.write a b) (a + 1#16) rest

/-! ### Registers -/

/-- The names of the 8-bit registers (spec/00_scope.md R10). -/
inductive Reg where
  | a
  | x
  | y
  | sp
deriving DecidableEq, Repr

/-- `x[i]` (spec/00_scope.md R10). -/
def State.reg (s : State) (r : Reg) : Byte :=
  match r with
  | .a => s.a
  | .x => s.x
  | .y => s.y
  | .sp => s.sp

/-- `x[i] <- v` (spec/00_scope.md R10). -/
def State.setReg (s : State) (r : Reg) (v : Byte) : State :=
  match r with
  | .a => { s with a := v }
  | .x => { s with x := v }
  | .y => { s with y := v }
  | .sp => { s with sp := v }

/-- `pc <- target` (spec/00_scope.md R10). -/
def State.setPc (s : State) (target : Address) : State := { s with pc := target }

/-- `pc <- (P0 + length) mod 65536` (spec/40_step_cycle.md R131). -/
def State.advance (s : State) (length : Address) : State := s.setPc (s.pc + length)

/-! ### Devices -/

/-- What a read hook answers (spec/20_memory.md R57). -/
structure ReadReply where
  device : Device
  value : Byte
  handled : Bool
deriving DecidableEq, Repr

/-- What a write hook answers (spec/20_memory.md R58); a failing device is left as its hook leaves it (log 9). -/
inductive WriteReply where
  | done (device : Device) (handled : Bool)
  | ioFailure (device : Device)
deriving DecidableEq, Repr

/-- The range a device claims (spec/20_memory.md R56). -/
def Device.range : Device → AddressRange
  | .charOut _ _ => Config.sinkRange
  | .custom _ range _ => range

/-- Whether a device claims an address: its range includes both ends (spec/20_memory.md R54, R56). -/
def Device.claims (d : Device) (a : Address) : Bool := decide (d.range.first ≤ a) && decide (a ≤ d.range.last)

/-- The device as Construct makes it, in its initial state (spec/10_state.md R36). -/
def DeviceSpec.initial : DeviceSpec → Device
  | .charOut => .charOut [] 0
  | .custom id range init => .custom id range init

/-- The read hook (spec/20_memory.md R57; the sink declines every read, spec/60_exceptions.md R214). -/
def Device.read (d : Device) (a : Address) : ReadReply :=
  match d with
  | .charOut out n => { device := .charOut out n, value := 0#8, handled := false }
  | .custom id range data =>
    let reply := Config.customRead id data a
    { device := .custom id range reply.1, value := reply.2.1, handled := reply.2.2 }

/-- The write hook (spec/20_memory.md R58; the sink, spec/60_exceptions.md R214). -/
def Device.write (sinkFails : List Nat) (d : Device) (a : Address) (v : Byte) : WriteReply :=
  match d with
  | .charOut out n =>
    if a ≠ Config.sinkRange.first then .done (.charOut out n) false
    else if n ∈ sinkFails then .ioFailure (.charOut out n)
    else .done (.charOut (out ++ [v]) (n + 1)) true
  | .custom id range data =>
    let reply := Config.customWrite id data a v
    match reply.2 with
    | some handled => .done (.custom id range reply.1) handled
    | none => .ioFailure (.custom id range reply.1)

/-- What the spec says of a device's state in any reachable machine: its range is well formed (spec/20_memory.md R60)
and the sink's count is the number of bytes it has emitted (spec/60_exceptions.md R214). -/
def Device.wf : Device → Bool
  | .charOut out n => decide (n = out.length)
  | .custom _ range _ => range.wf

/-- One address's entry of the device table under `MapDevice(k)`: a device that claims the address overwrites the
entry (spec/20_memory.md R54). -/
def mapDevice (k : Nat) (d : Device) (a : Address) (prior : Option (Nat × Device)) : Option (Nat × Device) :=
  if d.claims a then some (k, d) else prior

/-- One address's entry after `MapDevice` of every device in list order, the first numbered `k`. -/
def mapDevices (k : Nat) (a : Address) (prior : Option (Nat × Device)) : List Device → Option (Nat × Device)
  | [] => prior
  | d :: rest => mapDevices (k + 1) a (mapDevice k d a prior) rest

/-- `devmap[a]` with the device it names (spec/10_state.md R33; spec/20_memory.md R55). -/
def State.deviceAt (s : State) (a : Address) : Option (Nat × Device) := mapDevices 0 a none s.devices

/-- `dev_state[k] <- s'`. -/
def State.setDevice (s : State) (k : Nat) (d : Device) : State := { s with devices := s.devices.set k d }

/-! ### The bus -/

/-- `MemRead(a, 1)` (spec/20_memory.md R52). -/
def busRead (s : State) (a : Address) : Byte × State :=
  match s.deviceAt a with
  | none => (s.mem.read a, s)
  | some (k, d) =>
    let reply := d.read a
    (if reply.handled then reply.value else s.mem.read a, s.setDevice k reply.device)

/-- The two ends of a bus write: the byte is in the store, or the device's write hook failed. -/
inductive BusWrite where
  | stored (s : State)
  | failed (s : State)
deriving DecidableEq, Repr

/-- `mem[a] <- v`. -/
def State.store (s : State) (a : Address) (v : Byte) : State := { s with mem := s.mem.write a v }

/-- `MemWrite(a, 1, v)` up to its raise (spec/20_memory.md R53): the hook runs before the store, its handled result is
ignored, and a failed hook leaves the cell as it was. -/
def busWrite (s : State) (a : Address) (v : Byte) : BusWrite :=
  match s.deviceAt a with
  | none => .stored (s.store a v)
  | some (k, d) =>
    match d.write s.sinkFails a v with
    | .done d' _ => .stored ((s.setDevice k d').store a v)
    | .ioFailure d' => .failed (s.setDevice k d')

/-! ### Stops -/

/-- The latch value of a stop (spec/60_exceptions.md R200). -/
def StopCause.runState : StopCause → RunState
  | .halt => .halted
  | .fault cause => .faulted cause

/-- The code of a stop cause (spec/60_exceptions.md R200); nothing in the machine reads it. -/
def StopCause.code : StopCause → Nat
  | .halt => 1
  | .fault (.illegalOpcode _ _) => 2
  | .fault (.deviceIOFailure _ _) => 3

/-- `raise cause` (spec/00_scope.md R12; spec/60_exceptions.md R207): the latch is written and nothing else; no
register is saved and control goes nowhere. -/
def State.raise (s : State) (cause : StopCause) : State := { s with runState := cause.runState }

/-- `Reset()` (spec/70_reset_and_hazards.md R235), the one way out of a stop: `pc` from the raw vector bytes, the latch
to RUNNING, nothing else. -/
def resetMachine (s : State) : State :=
  { s with
    pc := littleEndian (s.mem.read Config.resetVectorAddr) (s.mem.read (Config.resetVectorAddr + 1#16))
    runState := .running }

end Sys2Proof.Machine
end

