-- ==== Sys2Proof/Machine/Flags.lean ====
section
/-! DEFINITION. The flags: reading and writing one, the comparison of CPX and CMP, and the status register as a byte. -/

namespace Sys2Proof.Machine

/-- The live flags (spec/10_state.md R27). -/
inductive Flag where
  | c
  | z
  | n
deriving DecidableEq, Repr

/-- `flag[f]` (spec/00_scope.md R10). -/
def Status.flag (p : Status) : Flag → Bool
  | .c => p.carry
  | .z => p.zero
  | .n => p.negative

/-- `flag[f] <- b`; every other bit of `P` is unchanged (spec/00_scope.md R10). -/
def Status.setFlag (p : Status) (f : Flag) (b : Bool) : Status :=
  match f with
  | .c => { p with carry := b }
  | .z => { p with zero := b }
  | .n => { p with negative := b }

/-- `Compare(a, b)` (spec/45_compare.md R165): unsigned, and Negative is touched only when the operands are equal. -/
def Status.compare (p : Status) (a b : Byte) : Status :=
  if a < b then (p.setFlag .z false).setFlag .c false
  else if b < a then (p.setFlag .z false).setFlag .c true
  else ((p.setFlag .z true).setFlag .c true).setFlag .n false

/-- The status after `Compare` of a register with an operand. -/
def State.compareReg (s : State) (r : Reg) (b : Byte) : State := { s with status := s.status.compare (s.reg r) b }

/-! ### The status register as a byte, for any positions of the flags (spec/10_state.md R27) -/

/-- FLAG_BIT_f. -/
def flagPosition (fb : Config.FlagBits) : Flag → Fin 8
  | .c => fb.c
  | .z => fb.z
  | .n => fb.n

/-- Whether a live flag lies at a position. -/
def isFlagPosition (fb : Config.FlagBits) (i : Fin 8) : Bool :=
  decide (i = fb.c) || decide (i = fb.z) || decide (i = fb.n)

/-- The positions of the dormant bits, ascending. -/
def dormantPositions (fb : Config.FlagBits) : List (Fin 8) :=
  (List.finRange 8).filter (fun i => !isFlagPosition fb i)

/-- One bit of the status byte. -/
def Status.bitAt (p : Status) (fb : Config.FlagBits) (i : Fin 8) : Bool :=
  if i = fb.c then p.carry
  else if i = fb.z then p.zero
  else if i = fb.n then p.negative
  else p.dormant.getLsbD ((dormantPositions fb).idxOf i)

/-- `P` as a byte. -/
def Status.toByte (p : Status) (fb : Config.FlagBits) : Byte := BitVec.ofFnLE (p.bitAt fb)

/-- The status a byte stands for. -/
def Status.ofByte (fb : Config.FlagBits) (v : Byte) : Status :=
  { carry := v.getLsbD fb.c
    zero := v.getLsbD fb.z
    negative := v.getLsbD fb.n
    dormant := BitVec.ofFnLE (fun k : Fin 5 => v.getLsbD ((dormantPositions fb).getD k.val 0)) }

end Sys2Proof.Machine
end

