-- ==== Sys2Proof/Machine/Operands.lean ====
section
/-! DEFINITION. The operand forms (spec/40_step_cycle.md R126 to R130, R133): implied and immediate operands stand in
the instruction; the others form an address. -/

namespace Sys2Proof.Machine

/-- `zext_16(v)` (spec/00_scope.md R9). -/
def zext16 (v : Byte) : Address := v.setWidth 16

/-- `sext_16(v)` (spec/00_scope.md R9). -/
def sext16 (v : Byte) : Address := v.signExtend 16

/-- Absolute: the operand is the address itself (R128). -/
def absoluteAddress (addr16 : Address) : Address := addr16

/-- Absolute indexed by X: the index is unsigned and the sum wraps (R129). -/
def indexedAddress (s : State) (addr16 : Address) : Address := addr16 + zext16 (s.reg .x)

/-- `BranchTarget(P0, rel8)` (spec/46_branch.md R170). -/
def branchTarget (p0 : Address) (rel8 : Byte) : Address := p0 + 2#16 + sext16 rel8

/-- The displacement an assembler puts into a branch at `p0` to reach `label`, where one exists (spec/30_encoding.md
R102). DEDUCED, safe: the difference is taken modulo 65536, as program P6 of spec/95_test_vectors.md needs (log 13). -/
def branchDisplacement (p0 label : Address) : Option Byte :=
  let offset := label - (p0 + 2#16)
  if -128 ≤ offset.toInt ∧ offset.toInt ≤ 127 then some (lowByte offset) else none

end Sys2Proof.Machine
end

