-- ==== Sys2Proof/Machine/Branch.lean ====
section
/-! DEFINITION. BNE and BEQ (spec/46_branch.md): `pc` and nothing else. -/

namespace Sys2Proof.Machine

/-- Go to the branch target or past the two bytes of the branch. -/
def branchIf (taken : Bool) (rel8 : Byte) (s : State) : State :=
  s.setPc (if taken then branchTarget s.pc rel8 else s.pc + 2#16)

/-- `BNE` (R171): taken when the Zero flag is clear. -/
def execBne (rel8 : Byte) (s : State) : Host.Outcome State Fault Refusal :=
  .next (branchIf (!s.status.flag .z) rel8 s)

/-- `BEQ` (R172): taken when the Zero flag is set. -/
def execBeq (rel8 : Byte) (s : State) : Host.Outcome State Fault Refusal :=
  .next (branchIf (s.status.flag .z) rel8 s)

end Sys2Proof.Machine
end

