-- ==== Sys2Proof/Machine/Compare.lean ====
section
/-! DEFINITION. CPX and CMP (spec/45_compare.md), the only writers of flags. -/

namespace Sys2Proof.Machine

/-- `CPX` (R166). -/
def execCpx (imm8 : Byte) (s : State) : Host.Outcome State Fault Refusal := .next ((s.compareReg .x imm8).advance 2#16)

/-- `CMP` (R167). -/
def execCmp (imm8 : Byte) (s : State) : Host.Outcome State Fault Refusal := .next ((s.compareReg .a imm8).advance 2#16)

end Sys2Proof.Machine
end

