-- ==== Sys2Proof/Machine/Increment.lean ====
section
/-! DEFINITION. INX and INY (spec/42_increment.md): the register wraps modulo 256 and no flag is written. -/

namespace Sys2Proof.Machine

/-- Add one to a register and go on. -/
def increment (r : Reg) (s : State) : State := (s.setReg r (s.reg r + 1#8)).advance 1#16

/-- `INX` (R145). -/
def execInx (s : State) : Host.Outcome State Fault Refusal := .next (increment .x s)

/-- `INY` (R146). -/
def execIny (s : State) : Host.Outcome State Fault Refusal := .next (increment .y s)

end Sys2Proof.Machine
end

