-- ==== Sys2Proof/Machine/Jump.lean ====
section
/-! DEFINITION. JMP_ABS (spec/44_jump.md). -/

namespace Sys2Proof.Machine

/-- `JMP_ABS` (R160): `pc` and nothing else; nothing is added to the target. -/
def execJmpAbs (addr16 : Address) (s : State) : Host.Outcome State Fault Refusal :=
  .next (s.setPc (absoluteAddress addr16))

end Sys2Proof.Machine
end

