-- ==== Sys2Proof/Machine/LoadStore.lean ====
section
/-! DEFINITION. The loads and the store (spec/43_load_store.md). None of them writes a flag. -/

namespace Sys2Proof.Machine

/-- Load a register with a constant and go on. -/
def loadImmediate (r : Reg) (imm8 : Byte) (s : State) : State := (s.setReg r imm8).advance 2#16

/-- `LDA_IMMEDIATE` (R150). -/
def execLdaImmediate (imm8 : Byte) (s : State) : Host.Outcome State Fault Refusal := .next (loadImmediate .a imm8 s)

/-- `LDA_ABS_X` (R151): a bus read, so a device at the effective address is asked first. -/
def execLdaAbsX (addr16 : Address) (s : State) : Host.Outcome State Fault Refusal :=
  let r := busRead s (indexedAddress s addr16)
  .next ((r.2.setReg .a r.1).advance 3#16)

/-- `LDX_IMMEDIATE` (R152). -/
def execLdxImmediate (imm8 : Byte) (s : State) : Host.Outcome State Fault Refusal := .next (loadImmediate .x imm8 s)

/-- `LDY_IMMEDIATE` (R153). -/
def execLdyImmediate (imm8 : Byte) (s : State) : Host.Outcome State Fault Refusal := .next (loadImmediate .y imm8 s)

/-- `STA_ABS` (R154): a bus write; where the device's write hook fails the machine stops with the cell unwritten and
`pc` at the instruction. -/
def execStaAbs (addr16 : Address) (s : State) : Host.Outcome State Fault Refusal :=
  match busWrite s (absoluteAddress addr16) (s.reg .a) with
  | .stored s' => .next (s'.advance 3#16)
  | .failed s' => .next (s'.raise (.fault (.deviceIOFailure (absoluteAddress addr16) (s.reg .a))))

end Sys2Proof.Machine
end

