-- ==== Sys2Proof/Machine/System.lean ====
section
/-! DEFINITION. HALT and the illegal opcode (spec/41_halt.md). -/

namespace Sys2Proof.Machine

/-- `HALT` (R140): the machine stops, successfully; `pc` stays at the HALT byte. -/
def execHalt (s : State) : Host.Outcome State Fault Refusal := .next (s.raise .halt)

/-- The decoder's `otherwise` arm (R141): the stop records the byte and its address. -/
def execIllegalOpcode (op : Byte) (s : State) : Host.Outcome State Fault Refusal :=
  .next (s.raise (.fault (.illegalOpcode op s.pc)))

end Sys2Proof.Machine
end

