-- ==== Sys2Proof/Machine/Dispatch.lean ====
section
/-! DEFINITION. One arm per instruction, in the order of the opcode table (spec/40_step_cycle.md R121). -/

namespace Sys2Proof.Machine

def exec (i : Instr) (s : State) : Host.Outcome State Fault Refusal :=
  match i with
  | .halt => Sys2Proof.Machine.execHalt s
  | .inx => Sys2Proof.Machine.execInx s
  | .iny => Sys2Proof.Machine.execIny s
  | .ldaImmediate imm8 => Sys2Proof.Machine.execLdaImmediate imm8 s
  | .ldaAbsX addr16 => Sys2Proof.Machine.execLdaAbsX addr16 s
  | .ldxImmediate imm8 => Sys2Proof.Machine.execLdxImmediate imm8 s
  | .ldyImmediate imm8 => Sys2Proof.Machine.execLdyImmediate imm8 s
  | .staAbs addr16 => Sys2Proof.Machine.execStaAbs addr16 s
  | .jmpAbs addr16 => Sys2Proof.Machine.execJmpAbs addr16 s
  | .cpx imm8 => Sys2Proof.Machine.execCpx imm8 s
  | .cmp imm8 => Sys2Proof.Machine.execCmp imm8 s
  | .bne rel8 => Sys2Proof.Machine.execBne rel8 s
  | .beq rel8 => Sys2Proof.Machine.execBeq rel8 s

end Sys2Proof.Machine
end

