-- ==== Sys2Proof/Machine/Cycle.lean ====
section
/-! DEFINITION. The step cycle (spec/40_step_cycle.md): fetch through the bus, decode, execute; and the accesses of one
step in order (spec/20_memory.md R73). -/

namespace Sys2Proof.Machine

/-- Fetch and decode (R121, R123): the opcode byte, then the operand bytes its format has, in ascending address order,
each by a bus read, so a device may answer it (spec/20_memory.md R74). With it, the state those reads leave, in which
`pc` is still `P0`. An illegal opcode reads no operand. -/
def fetch (s : State) : Except DecodeError Instr × State :=
  let r0 := busRead s s.pc
  match (formatOf r0.1).map Format.operandBytes with
  | some 1 =>
    let r1 := busRead r0.2 (s.pc + 1#16)
    (decode r0.1 r1.1 0#8, r1.2)
  | some 2 =>
    let r1 := busRead r0.2 (s.pc + 1#16)
    let r2 := busRead r1.2 (s.pc + 2#16)
    (decode r0.1 r1.1 r2.1, r2.2)
  | _ => (decode r0.1 0#8 0#8, r0.2)

/-- The state a fetched instruction runs on: the one its fetch leaves. A HALT whose fetch changed a device runs on that
state or on the one before the fetch, which the spec leaves unsettled (log 12). -/
def executedOn (i : Instr) (before fetched : State) : State :=
  if i ≠ .halt ∨ fetched.devices = before.devices ∨ Config.haltKeepsFetch = true then fetched else before

/-- One step of a running machine (R121). -/
def runCycle (s : State) : Host.Outcome State Fault Refusal :=
  match fetch s with
  | (.ok i, s') => exec i (executedOn i s s')
  | (.error (.illegalOpcode op), s') => execIllegalOpcode op s'

/-- One step: there is none unless `run_state` is RUNNING (R120). -/
def cycle (s : State) : Host.Outcome State Fault Refusal :=
  match s.runState with
  | .running => runCycle s
  | .halted => .refused .notRunning
  | .faulted _ => .refused .notRunning

/-- The state with the bytes of a table word in the raw store at `pc`, where the next step fetches. -/
def placeAtPc (s : State) (bytes : List Byte) : State := { s with mem := s.mem.load s.pc bytes }

/-- One bus access. -/
inductive BusAccess where
  | read (a : Address)
  | write (a : Address) (v : Byte)
deriving DecidableEq, Repr

/-- What one access does to the state, whatever its answer. -/
def performAccess (s : State) : BusAccess → State
  | .read a => (busRead s a).2
  | .write a v =>
    match busWrite s a v with
    | .stored s' => s'
    | .failed s' => s'

/-- The fetch reads of a step whose opcode byte is `op` (spec/20_memory.md R73). -/
def fetchAccesses (p0 : Address) (op : Byte) : List BusAccess :=
  match (formatOf op).map Format.operandBytes with
  | some 1 => [.read p0, .read (p0 + 1#16)]
  | some 2 => [.read p0, .read (p0 + 1#16), .read (p0 + 2#16)]
  | _ => [.read p0]

/-- The data access of an instruction, if it has one (spec/20_memory.md R73). -/
def dataAccesses (i : Instr) (s : State) : List BusAccess :=
  match i with
  | .ldaAbsX addr16 => [.read (indexedAddress s addr16)]
  | .staAbs addr16 => [.write (absoluteAddress addr16) (s.reg .a)]
  | .halt => []
  | .inx => []
  | .iny => []
  | .ldaImmediate _ => []
  | .ldxImmediate _ => []
  | .ldyImmediate _ => []
  | .jmpAbs _ => []
  | .cpx _ => []
  | .cmp _ => []
  | .bne _ => []
  | .beq _ => []

/-- The bus accesses of the step a running machine takes, in order (spec/20_memory.md R73). -/
def stepAccesses (s : State) : List BusAccess :=
  fetchAccesses s.pc (busRead s s.pc).1 ++
    match fetch s with
    | (.ok i, s') => dataAccesses i s'
    | (.error _, _) => []

end Sys2Proof.Machine
end

