-- ==== Sys2Proof/Machine/Step.lean ====
section
/-! DEFINITION. The machine's step and the placing of one instruction where it fetches. -/

namespace Sys2Proof.Machine

/-- One step (spec/40_step_cycle.md R120, R121). -/
def step (s : State) : Host.Outcome State Fault Refusal := cycle s

/-- The state with one instruction's bits stored at `pc`; it stands for a LoadRom at that address (log 8). -/
def State.withFetchWord (s : State) (nbits w : Nat) : State := placeAtPc s (tableBytes nbits w)

end Sys2Proof.Machine
end

