-- ==== Sys2Proof/Machine/Assembly.lean ====
section
/-! DEFINITION. The spec's assembler form of an instruction (spec/30_encoding.md R102), a notation and not a
toolchain's. -/

namespace Sys2Proof.Machine

/-- One hexadecimal digit. -/
def hexDigit (n : Nat) : String := (["0", "1", "2", "3", "4", "5", "6", "7", "8", "9", "A", "B", "C", "D", "E", "F"]).getD n ""

/-- A byte written `0x..`. -/
def hexByte (v : Byte) : String := "0x" ++ hexDigit (v.toNat / 16) ++ hexDigit (v.toNat % 16)

/-- An address written `0x....`. -/
def hexAddress (v : Address) : String :=
  hexByte (highByte v) ++ hexDigit ((lowByte v).toNat / 16) ++ hexDigit ((lowByte v).toNat % 16)

/-- The assembler form of the instruction at `p0` (R102); a branch names its target's address. -/
def asmText (p0 : Address) : Instr → String
  | .halt => "HALT"
  | .inx => "INX"
  | .iny => "INY"
  | .ldaImmediate imm8 => "LDA #" ++ hexByte imm8
  | .ldaAbsX addr16 => "LDA " ++ hexAddress addr16 ++ ",X"
  | .ldxImmediate imm8 => "LDX #" ++ hexByte imm8
  | .ldyImmediate imm8 => "LDY #" ++ hexByte imm8
  | .staAbs addr16 => "STA " ++ hexAddress addr16
  | .jmpAbs addr16 => "JMP " ++ hexAddress addr16
  | .cpx imm8 => "CPX #" ++ hexByte imm8
  | .cmp imm8 => "CMP #" ++ hexByte imm8
  | .bne rel8 => "BNE " ++ hexAddress (branchTarget p0 rel8)
  | .beq rel8 => "BEQ " ++ hexAddress (branchTarget p0 rel8)

end Sys2Proof.Machine
end

