-- ==== Sys2Proof/Machine/HostOps.lean ====
section
/-! DEFINITION. What the host does to the machine, always between steps (spec/70_reset_and_hazards.md R230 to R240). -/

namespace Sys2Proof.Machine

/-- `SetResetVector(rv)` (R231): two raw writes, low byte first. -/
def setResetVector (s : State) (rv : Address) : State :=
  (s.store Config.resetVectorAddr (lowByte rv)).store (Config.resetVectorAddr + 1#16) (highByte rv)

/-- The machine as Construct allocates it, before the vector is written: the store all zero, the devices registered in
their initial states, the registers and the status at the launch's values (R230). Its `pc` is replaced by the reset
that follows. -/
def allocate (l : Launch) : State :=
  { pc := 0#16
    a := l.initA
    x := l.initX
    y := l.initY
    sp := l.initSP
    status := Status.ofByte l.flagBits l.initP
    runState := .running
    mem := []
    devices := l.devices.map DeviceSpec.initial
    sinkFails := l.sinkFails }

/-- `Construct(rv, devices)` (R230): refused for an ill-formed configuration (spec/20_memory.md R60); else map devices,
write the vector, reset, in that order. -/
def construct (l : Launch) : Host.Outcome State Fault Refusal :=
  if l.wf then .next (resetMachine (setResetVector (allocate l) l.resetVector)) else .refused .illFormedConfiguration

/-- `LoadRom(address, bytes)` (R232; spec/20_memory.md R61): a raw copy, refused whole past the end of the store. -/
def loadRom (address : Address) (bytes : List Byte) (s : State) : Host.Outcome State Fault Refusal :=
  if address.toNat + bytes.length > Config.memSize then .refused .loadPastEnd
  else .next { s with mem := s.mem.load address bytes }

/-- Steps 1 and 2 of the boot sequence (R233). -/
def boot (l : Launch) : Host.Outcome State Fault Refusal :=
  match construct l with
  | .next s => loadRom l.romBase l.rom s
  | .fault r => .fault r
  | .refused r => .refused r

/-- The reference platform (R246; spec/00_scope.md R7), with nothing in its ROM. The INIT values are zero as in
`State.reset` (log 1, log 2). -/
def Launch.reference : Launch :=
  { resetVector := 0x8000#16
    devices := [.charOut]
    initA := 0#8
    initX := 0#8
    initY := 0#8
    initSP := 0#8
    initP := 0#8
    flagBits := { c := 0, z := 1, n := 7 }
    sinkFails := []
    romBase := 0x8000#16
    rom := [] }

/-- What `Step()` reports to the host (R240; spec/40_step_cycle.md R124). -/
inductive StepReport where
  | completed
  | halted
  | faulted (cause : FaultCause)
deriving DecidableEq, Repr

/-- The report the latch gives after a step. -/
def reportOf : RunState → StepReport
  | .running => .completed
  | .halted => .halted
  | .faulted cause => .faulted cause

/-- `Step()` as a host operation (R240). -/
def hostStep (s : State) : Host.Outcome (StepReport × State) Fault Refusal :=
  match step s with
  | .next t => .next (reportOf t.runState, t)
  | .fault r => .fault r
  | .refused r => .refused r

/-- What the host may call between two steps (R238). -/
inductive HostCall where
  | loadRom (address : Address) (bytes : List Byte)
  | reset
  | step
deriving DecidableEq, Repr

/-- One call of the host's. -/
def hostCall (c : HostCall) (s : State) : Host.Outcome State Fault Refusal :=
  match c with
  | .loadRom address bytes => loadRom address bytes s
  | .reset => .next (resetMachine s)
  | .step => step s

end Sys2Proof.Machine
end

