-- ==== Sys2Proof/Safety.lean ====
section
/-! DEFINITION. The machine's invariant, and what a run and its end are (spec/40_step_cycle.md R132). -/

namespace Sys2Proof.Machine

/-- What holds of every state a host can bring about: the store is in canonical form; every device's range is well
formed and the sink's count is the number of bytes it emitted. -/
def State.Inv (s : State) : Prop := s.mem.wf = true ∧ s.devices.all Device.wf = true

/-- The states a run passes through (R132). -/
inductive Steps : State → State → Prop where
  | refl (s : State) : Steps s s
  | head {s t u : State} (first : step s = .next t) (rest : Steps t u) : Steps s u

/-- The run from `s` ends in the final state `t`: HALTED is the one final state, FAULTED never is
(spec/60_exceptions.md R208). -/
def HaltsIn (s t : State) : Prop := Steps s t ∧ t.runState = .halted

/-- The run from `s` ends in a fault, which is no final state (spec/60_exceptions.md R208). -/
def FaultsIn (s t : State) : Prop := Steps s t ∧ ∃ cause, t.runState = .faulted cause

/-- The run from `s` never ends (R132). -/
def Hangs (s : State) : Prop := ∀ t, Steps s t → t.runState = .running

end Sys2Proof.Machine
end

