-- ==== Sys2Proof/Certificates/Slice0/Obligations.lean ====
section
/-! DEFINITION. The statements for the provers. In the rules of the instructions `s0`, `s1`, `s2` are the states after the
fetch reads of the step, which differ from `s` in the states of the devices read and in nothing else. -/

open Sys2Proof Sys2Proof.Machine

/-! ### Encoding -/

/-- Decoding the bytes of any instruction, whatever bytes follow them, gives that instruction back
(spec/30_encoding.md R90 to R98). -/
def Obligations.DecodeOfEncode : Prop :=
  ∀ (i : Instr) (following : List Byte), decodeBytes (encode i ++ following) = .ok i

/-- Three bytes that decode begin with the encoding of what they decode to: no other word has that meaning. -/
def Obligations.EncodeOfDecode : Prop :=
  ∀ (b0 b1 b2 : Byte) (i : Instr), decode b0 b1 b2 = .ok i → encode i = [b0, b1, b2].take i.length

/-- Sample words written out from the opcode table (spec/30_encoding.md R96). -/
def Obligations.SampleWordsDecode : Prop :=
  decodeBytes [0b00000000#8] = .ok .halt ∧
  decodeBytes [0b11101000#8] = .ok .inx ∧
  decodeBytes [0b10111101#8, 0b00010001#8, 0b10000000#8] = .ok (.ldaAbsX 0x8011#16) ∧
  decodeBytes [0b10001101#8, 0b00000000#8, 0b11000000#8] = .ok (.staAbs 0xC000#16) ∧
  decodeBytes [0b01001100#8, 0b00000010#8, 0b10000000#8] = .ok (.jmpAbs 0x8002#16) ∧
  decodeBytes [0b11100000#8, 0b00000101#8] = .ok (.cpx 0x05#8) ∧
  decodeBytes [0b11010000#8, 0b11111011#8] = .ok (.bne 0xFB#8)

/-! ### The step -/

/-- R123: the operand bytes a format has are read by bus reads in ascending address order; an illegal opcode reads
none. -/
def Obligations.FetchReadsOperandsInOrder : Prop :=
  ∀ (s s0 : State) (op : Byte), busRead s s.pc = (op, s0) →
    (formatOf op = none → fetch s = (.error (.illegalOpcode op), s0)) ∧
    (formatOf op = some .imp → fetch s = (decode op 0#8 0#8, s0)) ∧
    (formatOf op = some .imm ∨ formatOf op = some .rel →
      ∀ b1 s1, busRead s0 (s.pc + 1#16) = (b1, s1) → fetch s = (decode op b1 0#8, s1)) ∧
    (formatOf op = some .abs ∨ formatOf op = some .absx →
      ∀ b1 s1 b2 s2, busRead s0 (s.pc + 1#16) = (b1, s1) → busRead s1 (s.pc + 2#16) = (b2, s2) →
        fetch s = (decode op b1 b2, s2))

/-- A step of a running machine is the meaning of the fetched instruction on the state the fetch leaves; where no device
claims the three bytes at `pc`, it is the meaning, on the state itself, of the instruction the store holds there. A HALT
runs on the state the fetch leaves or on the one before it, which is a free value (log 12). -/
def Obligations.StepRunsDecodedInstruction : Prop :=
  (∀ (s s' : State) (i : Instr), s.runState = .running → fetch s = (.ok i, s') → i ≠ .halt → step s = exec i s') ∧
  (∀ s s' : State, s.runState = .running → fetch s = (.ok .halt, s') →
    step s = exec .halt (if Config.haltKeepsFetch = true then s' else s)) ∧
  (∀ (s : State) (i : Instr), s.runState = .running →
    s.deviceAt s.pc = none → s.deviceAt (s.pc + 1#16) = none → s.deviceAt (s.pc + 2#16) = none →
    decode (s.mem.read s.pc) (s.mem.read (s.pc + 1#16)) (s.mem.read (s.pc + 2#16)) = .ok i →
    step s = exec i s)

/-- A table word placed at `pc`, where no device claims its bytes, is what the next step runs (the model's choice,
log 8). -/
def Obligations.PlacedWordRunsNext : Prop :=
  ∀ (s : State) (nbits w : Nat) (i : Instr), s.runState = .running → s.mem.wf = true →
    s.deviceAt s.pc = none → s.deviceAt (s.pc + 1#16) = none → s.deviceAt (s.pc + 2#16) = none →
    decodeTableWord nbits w = some i →
    step (s.withFetchWord nbits w) = exec i (s.withFetchWord nbits w) ∧
    s.withFetchWord nbits w = { s with mem := (s.withFetchWord nbits w).mem }

/-- R120: a machine that is not RUNNING has no step; a running one is never refused one. -/
def Obligations.StoppedMachineHasNoStep : Prop :=
  (∀ s : State, s.runState ≠ .running → step s = .refused .notRunning) ∧
  (∀ s : State, s.runState = .running → ∃ t, step s = .next t)

/-- R124, R206: a step of a running machine completes, or halts, which only opcode 0x00 does, or faults with one of the
two causes, each of which belongs to opcodes of its own. -/
def Obligations.StepOutcomesBelongToOpcodes : Prop :=
  ∀ (s s0 : State) (op : Byte), s.runState = .running → busRead s s.pc = (op, s0) →
    ∃ t, step s = .next t ∧
      (op = 0x00#8 ↔ t.runState = .halted) ∧
      (formatOf op = none ↔ t.runState = .faulted (.illegalOpcode op s.pc)) ∧
      (∀ o p, t.runState = .faulted (.illegalOpcode o p) → o = op ∧ p = s.pc) ∧
      (∀ a v, t.runState = .faulted (.deviceIOFailure a v) →
        op = 0x8D#8 ∧ v = s.a ∧ ∃ s', fetch s = (.ok (.staAbs a), s'))

/-- A stop changes the latch and nothing else but the states of devices. At a fault those states are what the step's own
accesses, in their order, leave; at HALT they are that or unchanged, which is a free value (spec/60_exceptions.md R207,
log 12). -/
def Obligations.StopsArePrecise : Prop :=
  ∀ s t : State, step s = .next t → t.runState ≠ .running →
    t = { s with
      runState := t.runState
      devices := if t.runState = .halted ∧ Config.haltKeepsFetch = false then s.devices
        else ((stepAccesses s).foldl performAccess s).devices }

/-- The store and the devices a step leaves are those its listed accesses, in their order, leave (spec/20_memory.md
R73); at HALT the devices are those or the ones before the step, which is a free value (log 12). -/
def Obligations.AccessesAccountForStep : Prop :=
  ∀ s t : State, step s = .next t →
    t.mem = ((stepAccesses s).foldl performAccess s).mem ∧
    t.devices = (if t.runState = .halted ∧ Config.haltKeepsFetch = false then s.devices
      else ((stepAccesses s).foldl performAccess s).devices) ∧
    (stepAccesses s).length ≤ 4 ∧ (stepAccesses s).head? = some (.read s.pc)

/-! ### The instructions -/

/-- R140: HALT writes the latch and nothing else, and after it there is no further step. The step clause is about a
fetch that changes no device; any other fetch is `HaltStepAfterAnyFetch`. -/
def Obligations.HaltRule : Prop :=
  encode .halt = [0x00#8] ∧
  (∀ s : State, exec .halt s = .next { s with runState := .halted }) ∧
  (∀ s : State, s.runState = .running → busRead s s.pc = (0x00#8, s) →
    step s = .next { s with runState := .halted } ∧
    step { s with runState := .halted } = .refused .notRunning)

/-- The step that fetches HALT writes the latch and changes nothing else but, where the device that answered keeps what
the opcode read did to it, that device; whether it keeps it is a free value, since spec/41_halt.md R140 and
spec/20_memory.md R52 differ (log 12). -/
def Obligations.HaltStepAfterAnyFetch : Prop :=
  ∀ s s0 : State, s.runState = .running → busRead s s.pc = (0x00#8, s0) →
    s0 = { s with devices := s0.devices } ∧
    ∃ t, step s = .next t ∧
      t = { s with
        runState := .halted
        devices := if Config.haltKeepsFetch = true then s0.devices else s.devices } ∧
      step t = .refused .notRunning

/-- R141: every opcode byte but the thirteen stops the machine; the stop records the byte and its address. -/
def Obligations.IllegalOpcodeRule : Prop :=
  ∀ (s s0 : State) (op : Byte), s.runState = .running → busRead s s.pc = (op, s0) →
    op ∉ [0x00#8, 0x4C#8, 0x8D#8, 0xA0#8, 0xA2#8, 0xA9#8, 0xBD#8, 0xC8#8, 0xC9#8, 0xD0#8, 0xE0#8, 0xE8#8, 0xF0#8] →
    step s = .next { s0 with runState := .faulted (.illegalOpcode op s.pc) } ∧
    step { s0 with runState := .faulted (.illegalOpcode op s.pc) } = .refused .notRunning

/-- The 243 illegal opcode bytes, and no other, are rejected by the decoder, by name (spec/30_encoding.md R99). -/
def Obligations.DecoderRejectsIllegalOpcodesByName : Prop :=
  (∀ op b1 b2 : Byte,
    (op ∈ [0x00#8, 0x4C#8, 0x8D#8, 0xA0#8, 0xA2#8, 0xA9#8, 0xBD#8, 0xC8#8, 0xC9#8, 0xD0#8, 0xE0#8, 0xE8#8, 0xF0#8] →
      ∃ i, decode op b1 b2 = .ok i) ∧
    (op ∉ [0x00#8, 0x4C#8, 0x8D#8, 0xA0#8, 0xA2#8, 0xA9#8, 0xBD#8, 0xC8#8, 0xC9#8, 0xD0#8, 0xE0#8, 0xE8#8, 0xF0#8] →
      decode op b1 b2 = .error (.illegalOpcode op))) ∧
  ((List.range 256).filter (fun n => (formatOf (BitVec.ofNat 8 n)).isNone)).length = 243

/-- R145: X wraps modulo 256, `pc` moves by one, nothing else changes. -/
def Obligations.InxRule : Prop :=
  encode .inx = [0xE8#8] ∧
  (∀ s : State, exec .inx s = .next { s with x := BitVec.ofNat 8 (s.x.toNat + 1), pc := s.pc + 1#16 }) ∧
  (∀ s s0 : State, s.runState = .running → busRead s s.pc = (0xE8#8, s0) →
    step s = .next { s0 with x := BitVec.ofNat 8 (s.x.toNat + 1), pc := s.pc + 1#16 })

/-- R146: Y wraps modulo 256, `pc` moves by one, nothing else changes. -/
def Obligations.InyRule : Prop :=
  encode .iny = [0xC8#8] ∧
  (∀ s : State, exec .iny s = .next { s with y := BitVec.ofNat 8 (s.y.toNat + 1), pc := s.pc + 1#16 }) ∧
  (∀ s s0 : State, s.runState = .running → busRead s s.pc = (0xC8#8, s0) →
    step s = .next { s0 with y := BitVec.ofNat 8 (s.y.toNat + 1), pc := s.pc + 1#16 })

/-- R150: A takes the constant, `pc` moves by two, nothing else changes. -/
def Obligations.LdaImmediateRule : Prop :=
  (∀ imm8 : Byte, encode (.ldaImmediate imm8) = [0xA9#8, imm8]) ∧
  (∀ (imm8 : Byte) (s : State), exec (.ldaImmediate imm8) s = .next { s with a := imm8, pc := s.pc + 2#16 }) ∧
  (∀ (s s0 s1 : State) (imm8 : Byte), s.runState = .running → busRead s s.pc = (0xA9#8, s0) →
    busRead s0 (s.pc + 1#16) = (imm8, s1) → step s = .next { s1 with a := imm8, pc := s.pc + 2#16 })

/-- R151: A takes the byte a bus read of `(addr16 + X) mod 65536` answers, `pc` moves by three, nothing else changes
but what that read does to a device. -/
def Obligations.LdaAbsXRule : Prop :=
  (∀ lo hi : Byte, encode (.ldaAbsX (BitVec.ofNat 16 (hi.toNat * 256 + lo.toNat))) = [0xBD#8, lo, hi]) ∧
  (∀ (addr16 : Address) (s : State),
    exec (.ldaAbsX addr16) s =
      .next { (busRead s (BitVec.ofNat 16 (addr16.toNat + s.x.toNat))).2 with
        a := (busRead s (BitVec.ofNat 16 (addr16.toNat + s.x.toNat))).1, pc := s.pc + 3#16 }) ∧
  (∀ (s s0 s1 s2 s3 : State) (lo hi v : Byte), s.runState = .running → busRead s s.pc = (0xBD#8, s0) →
    busRead s0 (s.pc + 1#16) = (lo, s1) → busRead s1 (s.pc + 2#16) = (hi, s2) →
    busRead s2 (BitVec.ofNat 16 (hi.toNat * 256 + lo.toNat + s.x.toNat)) = (v, s3) →
    step s = .next { s3 with a := v, pc := s.pc + 3#16 })

/-- R152: X takes the constant, `pc` moves by two, nothing else changes. -/
def Obligations.LdxImmediateRule : Prop :=
  (∀ imm8 : Byte, encode (.ldxImmediate imm8) = [0xA2#8, imm8]) ∧
  (∀ (imm8 : Byte) (s : State), exec (.ldxImmediate imm8) s = .next { s with x := imm8, pc := s.pc + 2#16 }) ∧
  (∀ (s s0 s1 : State) (imm8 : Byte), s.runState = .running → busRead s s.pc = (0xA2#8, s0) →
    busRead s0 (s.pc + 1#16) = (imm8, s1) → step s = .next { s1 with x := imm8, pc := s.pc + 2#16 })

/-- R153: Y takes the constant, `pc` moves by two, nothing else changes. -/
def Obligations.LdyImmediateRule : Prop :=
  (∀ imm8 : Byte, encode (.ldyImmediate imm8) = [0xA0#8, imm8]) ∧
  (∀ (imm8 : Byte) (s : State), exec (.ldyImmediate imm8) s = .next { s with y := imm8, pc := s.pc + 2#16 }) ∧
  (∀ (s s0 s1 : State) (imm8 : Byte), s.runState = .running → busRead s s.pc = (0xA0#8, s0) →
    busRead s0 (s.pc + 1#16) = (imm8, s1) → step s = .next { s1 with y := imm8, pc := s.pc + 2#16 })

/-- R154: the cell takes A and `pc` moves by three, whether no device, the sink or another device claims the address; a
write hook that fails stops the machine with the cell unwritten and `pc` where it was. -/
def Obligations.StaAbsRule : Prop :=
  (∀ lo hi : Byte, encode (.staAbs (BitVec.ofNat 16 (hi.toNat * 256 + lo.toNat))) = [0x8D#8, lo, hi]) ∧
  (∀ (addr16 : Address) (s : State), s.deviceAt addr16 = none →
    exec (.staAbs addr16) s = .next { s with mem := s.mem.write addr16 s.a, pc := s.pc + 3#16 }) ∧
  (∀ (addr16 : Address) (s : State) (k : Nat) (out : List Byte) (n : Nat),
    s.deviceAt addr16 = some (k, .charOut out n) →
    exec (.staAbs addr16) s =
      if n ∈ s.sinkFails then .next { s with runState := .faulted (.deviceIOFailure addr16 s.a) }
      else .next { s with
        mem := s.mem.write addr16 s.a
        devices := s.devices.set k (.charOut (out ++ [s.a]) (n + 1))
        pc := s.pc + 3#16 }) ∧
  (∀ (addr16 : Address) (s : State) (k id : Nat) (range : AddressRange) (data : Nat),
    s.deviceAt addr16 = some (k, .custom id range data) →
    exec (.staAbs addr16) s =
      if (Config.customWrite id data addr16 s.a).2 = none then
        .next { s with
          runState := .faulted (.deviceIOFailure addr16 s.a)
          devices := s.devices.set k (.custom id range (Config.customWrite id data addr16 s.a).1) }
      else .next { s with
        mem := s.mem.write addr16 s.a
        devices := s.devices.set k (.custom id range (Config.customWrite id data addr16 s.a).1)
        pc := s.pc + 3#16 }) ∧
  (∀ (s s0 s1 s2 : State) (lo hi : Byte), s.runState = .running → busRead s s.pc = (0x8D#8, s0) →
    busRead s0 (s.pc + 1#16) = (lo, s1) → busRead s1 (s.pc + 2#16) = (hi, s2) →
    step s = exec (.staAbs (BitVec.ofNat 16 (hi.toNat * 256 + lo.toNat))) s2)

/-- The frame of the store: no register but `pc`, no flag and no byte but the one at the effective address changes;
that byte takes A when the store completes and stays when it stops. -/
def Obligations.StoreFrame : Prop :=
  ∀ (addr16 : Address) (s t : State), s.mem.wf = true → exec (.staAbs addr16) s = .next t →
    t.a = s.a ∧ t.x = s.x ∧ t.y = s.y ∧ t.sp = s.sp ∧ t.status = s.status ∧ t.sinkFails = s.sinkFails ∧
    (∀ b, b ≠ absoluteAddress addr16 → t.mem.read b = s.mem.read b) ∧
    (t.runState = s.runState ∧ t.pc = s.pc + 3#16 ∧ t.mem.read (absoluteAddress addr16) = s.a ∨
      t.runState = .faulted (.deviceIOFailure addr16 s.a) ∧ t.pc = s.pc ∧ t.mem = s.mem)

/-- R160: `pc` takes the operand and nothing else changes. -/
def Obligations.JmpAbsRule : Prop :=
  (∀ lo hi : Byte, encode (.jmpAbs (BitVec.ofNat 16 (hi.toNat * 256 + lo.toNat))) = [0x4C#8, lo, hi]) ∧
  (∀ (addr16 : Address) (s : State), exec (.jmpAbs addr16) s = .next { s with pc := addr16 }) ∧
  (∀ (s s0 s1 s2 : State) (lo hi : Byte), s.runState = .running → busRead s s.pc = (0x4C#8, s0) →
    busRead s0 (s.pc + 1#16) = (lo, s1) → busRead s1 (s.pc + 2#16) = (hi, s2) →
    step s = .next { s2 with pc := BitVec.ofNat 16 (hi.toNat * 256 + lo.toNat) })

/-- R165: the three cases of the comparison, over unsigned values. -/
def Obligations.CompareThreeCases : Prop :=
  ∀ (p : Status) (a b : Byte),
    (a.toNat < b.toNat → p.compare a b = { p with zero := false, carry := false }) ∧
    (b.toNat < a.toNat → p.compare a b = { p with zero := false, carry := true }) ∧
    (a.toNat = b.toNat → p.compare a b = { p with zero := true, carry := true, negative := false })

/-- R166: CPX writes Zero and Carry always and clears Negative only when the operands are equal; `pc` moves by two and
nothing else changes. -/
def Obligations.CpxRule : Prop :=
  (∀ imm8 : Byte, encode (.cpx imm8) = [0xE0#8, imm8]) ∧
  (∀ (imm8 : Byte) (s : State),
    exec (.cpx imm8) s = .next { s with
      status := { s.status with
        zero := decide (s.x.toNat = imm8.toNat)
        carry := decide (imm8.toNat ≤ s.x.toNat)
        negative := s.status.negative && decide (s.x.toNat ≠ imm8.toNat) }
      pc := s.pc + 2#16 }) ∧
  (∀ (s s0 s1 : State) (imm8 : Byte), s.runState = .running → busRead s s.pc = (0xE0#8, s0) →
    busRead s0 (s.pc + 1#16) = (imm8, s1) → step s = exec (.cpx imm8) s1)

/-- R167: CMP writes Zero and Carry always and clears Negative only when the operands are equal; `pc` moves by two and
nothing else changes. -/
def Obligations.CmpRule : Prop :=
  (∀ imm8 : Byte, encode (.cmp imm8) = [0xC9#8, imm8]) ∧
  (∀ (imm8 : Byte) (s : State),
    exec (.cmp imm8) s = .next { s with
      status := { s.status with
        zero := decide (s.a.toNat = imm8.toNat)
        carry := decide (imm8.toNat ≤ s.a.toNat)
        negative := s.status.negative && decide (s.a.toNat ≠ imm8.toNat) }
      pc := s.pc + 2#16 }) ∧
  (∀ (s s0 s1 : State) (imm8 : Byte), s.runState = .running → busRead s s.pc = (0xC9#8, s0) →
    busRead s0 (s.pc + 1#16) = (imm8, s1) → step s = exec (.cmp imm8) s1)

/-- R170: the branch target is `(P0 + 2 + rel8) mod 65536` with `rel8` signed; its reach is -126 to +129. -/
def Obligations.BranchTargetRule : Prop :=
  (∀ (p0 : Address) (rel8 : Byte), branchTarget p0 rel8 = BitVec.ofInt 16 (p0.toNat + 2 + rel8.toInt)) ∧
  (∀ p0 : Address, branchTarget p0 0x80#8 = p0 - 126#16 ∧ branchTarget p0 0x7F#8 = p0 + 129#16)

/-- R171: BNE goes to its target when Zero is clear and past its two bytes when it is set; nothing but `pc` changes. -/
def Obligations.BneRule : Prop :=
  (∀ rel8 : Byte, encode (.bne rel8) = [0xD0#8, rel8]) ∧
  (∀ (rel8 : Byte) (s : State),
    exec (.bne rel8) s =
      .next { s with
        pc := if s.status.zero = false then BitVec.ofInt 16 (s.pc.toNat + 2 + rel8.toInt) else s.pc + 2#16 }) ∧
  (∀ (s s0 s1 : State) (rel8 : Byte), s.runState = .running → busRead s s.pc = (0xD0#8, s0) →
    busRead s0 (s.pc + 1#16) = (rel8, s1) → step s = exec (.bne rel8) s1)

/-- R172: BEQ goes to its target when Zero is set and past its two bytes when it is clear; nothing but `pc` changes. -/
def Obligations.BeqRule : Prop :=
  (∀ rel8 : Byte, encode (.beq rel8) = [0xF0#8, rel8]) ∧
  (∀ (rel8 : Byte) (s : State),
    exec (.beq rel8) s =
      .next { s with
        pc := if s.status.zero = true then BitVec.ofInt 16 (s.pc.toNat + 2 + rel8.toInt) else s.pc + 2#16 }) ∧
  (∀ (s s0 s1 : State) (rel8 : Byte), s.runState = .running → busRead s s.pc = (0xF0#8, s0) →
    busRead s0 (s.pc + 1#16) = (rel8, s1) → step s = exec (.beq rel8) s1)

/-- The displacement an assembler computes reaches its label, and every displacement is the one computed for its
target (spec/30_encoding.md R102; the wrap is the model's reading, log 13). -/
def Obligations.AssembledBranchReachesLabel : Prop :=
  (∀ (p0 label : Address) (rel8 : Byte), branchDisplacement p0 label = some rel8 → branchTarget p0 rel8 = label) ∧
  (∀ (p0 : Address) (rel8 : Byte), branchDisplacement p0 (branchTarget p0 rel8) = some rel8)

/-! ### What a step leaves alone -/

/-- R23: which instructions write which register and which flag. -/
def Obligations.RegisterWriters : Prop :=
  ∀ (s s0 t : State) (op : Byte), busRead s s.pc = (op, s0) → step s = .next t →
    (t.a ≠ s.a → op = 0xA9#8 ∨ op = 0xBD#8) ∧
    (t.x ≠ s.x → op = 0xE8#8 ∨ op = 0xA2#8) ∧
    (t.y ≠ s.y → op = 0xC8#8 ∨ op = 0xA0#8) ∧
    t.sp = s.sp ∧
    (t.status ≠ s.status → op = 0xE0#8 ∨ op = 0xC9#8) ∧
    t.status.dormant = s.status.dormant ∧
    t.sinkFails = s.sinkFails

/-- R22, R30: whatever the host calls, the stack pointer and the dormant bits keep their values, and Negative is never
set to 1. -/
def Obligations.DormantStateIsConstant : Prop :=
  ∀ (c : HostCall) (s t : State), hostCall c s = .next t →
    t.sp = s.sp ∧ t.status.dormant = s.status.dormant ∧ (s.status.negative = false → t.status.negative = false)

/-- A step changes a byte of the store only where the fetched instruction is a store to that address, and then the byte
becomes A. -/
def Obligations.OnlyStoreWritesMemory : Prop :=
  ∀ (s t : State) (b : Address), s.mem.wf = true → step s = .next t → t.mem.read b ≠ s.mem.read b →
    (∃ s', fetch s = (.ok (.staAbs b), s')) ∧ t.mem.read b = s.a ∧ t.runState = .running

/-- A sink's output changes only by a store to 0xC000, which appends A once. -/
def Obligations.SinkOutputOnlyGrows : Prop :=
  ∀ (s t : State) (k : Nat) (out : List Byte) (n : Nat), step s = .next t → s.devices[k]? = some (.charOut out n) →
    t.devices[k]? = some (.charOut out n) ∨
      t.devices[k]? = some (.charOut (out ++ [s.a]) (n + 1)) ∧ ∃ s', fetch s = (.ok (.staAbs 0xC000#16), s')

/-- The device table never changes (spec/10_state.md R33): no step changes a range or the number of devices. -/
def Obligations.DeviceTableIsConstant : Prop :=
  ∀ s t : State, step s = .next t → t.devices.map Device.range = s.devices.map Device.range

/-- Over any run, each of Y, the stack pointer, Carry, Negative and the dormant bits influences nothing else: a run from
a state that differs in one of them alone is the same run but for that one, which for the stack pointer and the dormant
bits keeps its value (spec/10_state.md R37). The clauses combine, one after the other, to a change of several at once. -/
def Obligations.UnobservableStateHasNoInfluence : Prop :=
  ∀ s t : State, Steps s t →
    (∀ y : Byte, ∃ y' : Byte, Steps { s with y := y } { t with y := y' }) ∧
    (∀ sp : Byte, Steps { s with sp := sp } { t with sp := sp }) ∧
    (∀ c : Bool, ∃ c' : Bool,
      Steps { s with status := { s.status with carry := c } } { t with status := { t.status with carry := c' } }) ∧
    (∀ n : Bool, ∃ n' : Bool,
      Steps { s with status := { s.status with negative := n } } { t with status := { t.status with negative := n' } }) ∧
    (∀ d : BitVec 5,
      Steps { s with status := { s.status with dormant := d } } { t with status := { t.status with dormant := d } })

/-- A store to an address no device claims is what the next fetch of that address reads (spec/20_memory.md R71). -/
def Obligations.StoreIsSeenByNextFetch : Prop :=
  ∀ (s s' t : State) (ea : Address), s.mem.wf = true → fetch s = (.ok (.staAbs ea), s') → s.deviceAt ea = none →
    step s = .next t → busRead t ea = (s.a, t)

/-! ### Memory, devices and the bus -/

/-- Two canonical stores that read the same everywhere are the same data (spec/10_state.md R32; the canonical form is
the model's). -/
def Obligations.EqualReadsEqualMemory : Prop :=
  ∀ m m' : Memory, m.wf = true → m'.wf = true → (∀ a : Address, m.read a = m'.read a) → m = m'

/-- R61: LoadRom copies the whole image, touching nothing else, exactly when it ends inside the address space, and is
refused whole otherwise. -/
def Obligations.LoadRomRule : Prop :=
  ∀ (s : State) (address : Address) (bytes : List Byte), s.mem.wf = true →
    (address.toNat + bytes.length ≤ 65536 →
      ∃ m, loadRom address bytes s = .next { s with mem := m } ∧
        (∀ (i : Nat) (b : Byte), bytes[i]? = some b → m.read (BitVec.ofNat 16 (address.toNat + i)) = b) ∧
        (∀ a : Address, a.toNat < address.toNat ∨ address.toNat + bytes.length ≤ a.toNat →
          m.read a = s.mem.read a)) ∧
    (65536 < address.toNat + bytes.length → loadRom address bytes s = .refused .loadPastEnd)

/-- R55: an address belongs to the device registered last among those that claim it, and to none where none does. -/
def Obligations.LaterDeviceWins : Prop :=
  ∀ (s : State) (a : Address),
    (∀ (k : Nat) (d : Device), s.deviceAt a = some (k, d) ↔
      s.devices[k]? = some d ∧ d.range.first.toNat ≤ a.toNat ∧ a.toNat ≤ d.range.last.toNat ∧
        ∀ (j : Nat) (e : Device), k < j → s.devices[j]? = some e →
          ¬(e.range.first.toNat ≤ a.toNat ∧ a.toNat ≤ e.range.last.toNat)) ∧
    (s.deviceAt a = none ↔
      ∀ e ∈ s.devices, ¬(e.range.first.toNat ≤ a.toNat ∧ a.toNat ≤ e.range.last.toNat))

/-- R52: a bus read asks the device that claims the address first; where it declines, or there is none, it answers the
raw byte; it changes nothing but that device's state. -/
def Obligations.BusReadRule : Prop :=
  ∀ (s : State) (a : Address),
    (s.deviceAt a = none → busRead s a = (s.mem.read a, s)) ∧
    (∀ k out n, s.deviceAt a = some (k, .charOut out n) → busRead s a = (s.mem.read a, s)) ∧
    (∀ k id range data, s.deviceAt a = some (k, .custom id range data) →
      busRead s a =
        (if (Config.customRead id data a).2.2 = true then (Config.customRead id data a).2.1 else s.mem.read a,
          { s with devices := s.devices.set k (.custom id range (Config.customRead id data a).1) }))

/-- R53: the write hook runs before the store, its handled result is ignored, and a failed hook is the one way the byte
does not reach the store; the step that wrote then stops. -/
def Obligations.BusWriteRule : Prop :=
  ∀ (s : State) (a : Address) (v : Byte),
    (s.deviceAt a = none → busWrite s a v = .stored { s with mem := s.mem.write a v }) ∧
    (∀ k d, s.deviceAt a = some (k, d) →
      (∀ d' handled, d.write s.sinkFails a v = .done d' handled →
        busWrite s a v = .stored { s with devices := s.devices.set k d', mem := s.mem.write a v }) ∧
      (∀ d', d.write s.sinkFails a v = .ioFailure d' →
        busWrite s a v = .failed { s with devices := s.devices.set k d' })) ∧
    (∀ s', busWrite s a s.a = .failed s' →
      exec (.staAbs a) s = .next { s' with runState := .faulted (.deviceIOFailure a s.a) })

/-- R214: the sink claims 0xC000 alone, starts empty, declines every read, and emits every byte written there once
unless the environment fails that write; on the bus a write there also stores the byte and a read answers the cell. -/
def Obligations.CharOutRule : Prop :=
  DeviceSpec.initial .charOut = .charOut [] 0 ∧
  (∀ (s : State) (k : Nat) (out : List Byte) (n : Nat) (v : Byte), s.deviceAt 0xC000#16 = some (k, .charOut out n) →
    busRead s 0xC000#16 = (s.mem.read 0xC000#16, s) ∧
    (n ∉ s.sinkFails → busWrite s 0xC000#16 v =
      .stored { s with
        devices := s.devices.set k (.charOut (out ++ [v]) (n + 1))
        mem := s.mem.write 0xC000#16 v })) ∧
  ∀ (out : List Byte) (n : Nat),
    (Device.charOut out n).range = { first := 0xC000#16, last := 0xC000#16 } ∧
    (∀ a, (Device.charOut out n).read a = { device := .charOut out n, value := 0x00#8, handled := false }) ∧
    (∀ fails a v, (Device.charOut out n).write fails a v =
      if a ≠ 0xC000#16 then .done (.charOut out n) false
      else if n ∈ fails then .ioFailure (.charOut out n)
      else .done (.charOut (out ++ [v]) (n + 1)) true)

/-! ### The status register as a byte -/

/-- Writing one flag changes the bit at that flag's position and no other bit of the byte, for any positions that are
pairwise distinct (spec/00_scope.md R10). -/
def Obligations.SetFlagWritesOneBit : Prop :=
  ∀ (fb : Config.FlagBits) (p : Status) (f : Flag) (b : Bool) (i : Fin 8), fb.wf = true →
    ((p.setFlag f b).toByte fb).getLsbD i = if i = flagPosition fb f then b else (p.toByte fb).getLsbD i

/-- The status and its byte determine each other, for any positions that are pairwise distinct (spec/10_state.md
R27). -/
def Obligations.StatusByteRoundTrip : Prop :=
  ∀ fb : Config.FlagBits, fb.wf = true →
    (∀ v : Byte, (Status.ofByte fb v).toByte fb = v) ∧ (∀ p : Status, Status.ofByte fb (p.toByte fb) = p)

/-! ### Construction, reset and the host -/

/-- R230: what Construct leaves, for every launch with a well-formed configuration, whatever the INIT values and the
flags' positions; an ill-formed device configuration is refused. -/
def Obligations.ConstructedState : Prop :=
  (∀ l : Launch, l.devices.all (fun d => d.range.wf) = false → construct l = .refused .illFormedConfiguration) ∧
  ∀ l : Launch, l.wf = true →
    ∃ s, construct l = .next s ∧
      s.pc = l.resetVector ∧ s.runState = .running ∧
      s.a = l.initA ∧ s.x = l.initX ∧ s.y = l.initY ∧ s.sp = l.initSP ∧ s.status.toByte l.flagBits = l.initP ∧
      s.devices = l.devices.map DeviceSpec.initial ∧ s.sinkFails = l.sinkFails ∧
      s.mem.read 0xFFFC#16 = BitVec.ofNat 8 l.resetVector.toNat ∧
      s.mem.read 0xFFFD#16 = BitVec.ofNat 8 (l.resetVector.toNat / 256) ∧
      (∀ a : Address, a ≠ 0xFFFC#16 → a ≠ 0xFFFD#16 → s.mem.read a = 0x00#8)

/-- R233: after steps 1 and 2 of the boot sequence `pc` holds the vector's value and the image lies at its base. -/
def Obligations.BootedState : Prop :=
  ∀ l : Launch, l.wf = true → l.romBase.toNat + l.rom.length ≤ 65536 →
    ∃ s, boot l = .next s ∧ s.pc = l.resetVector ∧ s.runState = .running ∧
      s.devices = l.devices.map DeviceSpec.initial ∧
      (∀ (i : Nat) (b : Byte), l.rom[i]? = some b → s.mem.read (BitVec.ofNat 16 (l.romBase.toNat + i)) = b)

/-- R60: a configuration is refused exactly when it has an inverted range or a device on either byte of the reset
vector; overlapping ranges are accepted. -/
def Obligations.IllFormedDevicesAreRefused : Prop :=
  ∀ l : Launch, l.flagBits.wf = true →
    (construct l = .refused .illFormedConfiguration ↔
      ∃ d ∈ l.devices,
        d.range.last.toNat < d.range.first.toNat ∨
          (d.range.first.toNat ≤ 0xFFFC ∧ 0xFFFC ≤ d.range.last.toNat) ∨
          (d.range.first.toNat ≤ 0xFFFD ∧ 0xFFFD ≤ d.range.last.toNat))

/-- Every reset vector's value is accepted, and the first step after Construct, with or without an image loaded,
executes the byte the bus answers at that value: the instruction it is the opcode of, or the stop of an illegal opcode.
Where no device claims the bytes there, that is the instruction the store holds there (spec/70_reset_and_hazards.md
R236, spec/40_step_cycle.md R121; whether a HALT fetched from a device runs on the state the fetch leaves or on the one
before it is a free value, log 12). -/
def Obligations.FirstFetchIsAtResetVector : Prop :=
  (∀ (l : Launch) (rv : Address), l.wf = true → ∃ s, construct { l with resetVector := rv } = .next s ∧ s.pc = rv) ∧
  ∀ (l : Launch) (s : State), construct l = .next s ∨ boot l = .next s →
    s.runState = .running ∧ s.pc = l.resetVector ∧ (stepAccesses s).head? = some (.read l.resetVector) ∧
    (∃ t, step s = .next t) ∧
    (∀ (i : Instr) (s' : State), fetch s = (.ok i, s') →
      (encode i).head? = some (busRead s l.resetVector).1 ∧
        (i ≠ .halt → step s = exec i s') ∧
        (i = .halt → step s = exec i (if Config.haltKeepsFetch = true then s' else s))) ∧
    (∀ (op : Byte) (s' : State), fetch s = (.error (.illegalOpcode op), s') →
      op = (busRead s l.resetVector).1 ∧
        step s = .next { s' with runState := .faulted (.illegalOpcode op l.resetVector) }) ∧
    (∀ i : Instr, s.deviceAt l.resetVector = none → s.deviceAt (l.resetVector + 1#16) = none →
      s.deviceAt (l.resetVector + 2#16) = none →
      decode (s.mem.read l.resetVector) (s.mem.read (l.resetVector + 1#16)) (s.mem.read (l.resetVector + 2#16)) =
        .ok i →
      step s = exec i s)

/-- R235: Reset writes `pc` from the vector bytes and the latch, and nothing else. -/
def Obligations.ResetRule : Prop :=
  ∀ s : State,
    resetMachine s = { s with
      pc := BitVec.ofNat 16 ((s.mem.read 0xFFFD#16).toNat * 256 + (s.mem.read 0xFFFC#16).toNat)
      runState := .running }

/-- `State.reset` is the machine Construct leaves on the reference launch with all INIT values zero: the model's choice
of a launch (log 1, log 2). -/
def Obligations.ResetStateIsReferenceLaunch : Prop :=
  construct Launch.reference = .next State.reset ∧ boot Launch.reference = .next State.reset

/-- R240: `Step()` reports completed, halted or faulted with its cause, as the latch says, and is refused for a stopped
machine. -/
def Obligations.HostStepReports : Prop :=
  (∀ s t : State, step s = .next t →
    (t.runState = .running → hostStep s = .next (.completed, t)) ∧
    (t.runState = .halted → hostStep s = .next (.halted, t)) ∧
    (∀ cause, t.runState = .faulted cause → hostStep s = .next (.faulted cause, t))) ∧
  (∀ s : State, s.runState ≠ .running → hostStep s = .refused .notRunning)

/-- A run ends in one state at most, in HALTED or in FAULTED and not both; every state it passes through leads to that
end; and a run that ends does not hang (spec/40_step_cycle.md R132). -/
def Obligations.RunEndsInOneState : Prop :=
  ∀ s t : State, HaltsIn s t ∨ FaultsIn s t →
    (∀ u, HaltsIn s u ∨ FaultsIn s u → u = t) ∧ (∀ u, Steps s u → Steps u t) ∧ ¬Hangs s ∧
      ¬(HaltsIn s t ∧ FaultsIn s t)

/-! ### The invariant -/

/-- The state after reset meets the invariant. -/
def Obligations.ResetMeetsInv : Prop := State.reset.Inv

/-- Every step keeps the invariant: the store stays canonical, every device's range well formed, every sink's count the
number of bytes it emitted. -/
def Obligations.StepKeepsInv : Prop :=
  ∀ s t : State, s.Inv → step s = .next t → t.Inv

/-- Construct establishes the invariant and every call of the host's keeps it. -/
def Obligations.HostKeepsInv : Prop :=
  (∀ (l : Launch) (s : State), construct l = .next s → s.Inv) ∧
  (∀ (c : HostCall) (s t : State), s.Inv → hostCall c s = .next t → t.Inv)
end

