-- ==== Sys2Proof/Laws/Memory.lean ====
section
/-! SUPPORT. What reading and writing the store does, and that every memory operation keeps the canonical form. -/

namespace Sys2Proof.Machine

theorem Memory.wfFrom_cons (low k : Nat) (v : Byte) (rest : Memory) :
    Memory.wfFrom low ((k, v) :: rest) = true ↔
      low ≤ k ∧ k < Config.memSize ∧ v ≠ Memory.unlisted ∧ Memory.wfFrom (k + 1) rest = true := by
  simp [Memory.wfFrom, and_assoc]

/-- A canonical store listed from `low` on is canonical from any lower address on. -/
theorem Memory.wfFrom_mono {low low' : Nat} {m : Memory} (h : Memory.wfFrom low m = true) (le : low' ≤ low) :
    Memory.wfFrom low' m = true := by
  cases m with
  | nil => rfl
  | cons c rest =>
    obtain ⟨hk, hb, hv, hr⟩ := (Memory.wfFrom_cons _ _ _ _).mp h
    exact (Memory.wfFrom_cons _ _ _ _).mpr ⟨le.trans hk, hb, hv, hr⟩

/-- An address below the first listed one reads as an unlisted address. -/
theorem Memory.readNat_of_lt {low a : Nat} {m : Memory} (h : Memory.wfFrom low m = true) (lt : a < low) :
    Memory.readNat m a = Memory.unlisted := by
  induction m generalizing low with
  | nil => rfl
  | cons c rest ih =>
    obtain ⟨hk, _, _, hr⟩ := (Memory.wfFrom_cons _ _ _ _).mp h
    have ne : c.1 ≠ a := by omega
    simpa [Memory.readNat, ne] using ih hr (by omega)

/-- A write keeps the canonical form. -/
theorem Memory.writeNat_wfFrom {low a : Nat} {m : Memory} (v : Byte) (h : Memory.wfFrom low m = true) (le : low ≤ a)
    (lt : a < Config.memSize) : Memory.wfFrom low (Memory.writeNat m a v) = true := by
  induction m generalizing low with
  | nil =>
    by_cases hv : v = Memory.unlisted
    · simp [Memory.writeNat, hv, Memory.wfFrom]
    · simp only [Memory.writeNat, hv, if_false]
      exact (Memory.wfFrom_cons _ _ _ _).mpr ⟨le, lt, hv, rfl⟩
  | cons c rest ih =>
    obtain ⟨k, w⟩ := c
    obtain ⟨hk, hb, hw, hr⟩ := (Memory.wfFrom_cons _ _ _ _).mp h
    simp only [Memory.writeNat]
    split_ifs with h1 hv h2 hv'
    · exact h
    · exact (Memory.wfFrom_cons _ _ _ _).mpr
        ⟨le, lt, hv, (Memory.wfFrom_cons _ _ _ _).mpr ⟨h1, hb, hw, hr⟩⟩
    · exact Memory.wfFrom_mono hr (by omega)
    · exact (Memory.wfFrom_cons _ _ _ _).mpr ⟨le, lt, hv', by rw [h2]; exact hr⟩
    · exact (Memory.wfFrom_cons _ _ _ _).mpr ⟨hk, hb, hw, ih hr (by omega)⟩

/-- A read after a write: the written address reads the value, every other address as before. -/
theorem Memory.readNat_writeNat {low a : Nat} {m : Memory} (b : Nat) (v : Byte) (h : Memory.wfFrom low m = true) :
    Memory.readNat (Memory.writeNat m a v) b = if b = a then v else Memory.readNat m b := by
  induction m generalizing low with
  | nil =>
    simp only [Memory.writeNat, Memory.readNat]
    split_ifs with hv hb hb
    · rw [hv]; rfl
    · rfl
    · simp [Memory.readNat, hb]
    · simp [Memory.readNat, Ne.symm hb]
  | cons c rest ih =>
    obtain ⟨k, w⟩ := c
    obtain ⟨_, _, _, hr⟩ := (Memory.wfFrom_cons _ _ _ _).mp h
    have below : ∀ x, x < k + 1 → Memory.readNat rest x = Memory.unlisted := fun x => Memory.readNat_of_lt hr
    simp only [Memory.writeNat]
    split_ifs with h1 hv hb hb h2 hv hb hb hb
    · subst hb
      simp [Memory.readNat, Nat.ne_of_gt h1, below b (by omega), hv]
    · rfl
    · simp [Memory.readNat, hb]
    · simp [Memory.readNat, Ne.symm hb]
    · rw [hb, below a (by omega), hv]
    · simp only [Memory.readNat, show ¬k = b by omega, if_false]
    · simp [Memory.readNat, hb]
    · simp only [Memory.readNat, show ¬a = b by omega, show ¬k = b by omega, if_false]
    · simpa [Memory.readNat, hb, show ¬k = a by omega] using ih hr
    · simp only [Memory.readNat, ih hr, hb, if_false]

/-- `RawRead` after `RawWrite` (spec/00_scope.md R11). -/
theorem Memory.read_write {m : Memory} (h : m.wf = true) (a b : Address) (v : Byte) :
    (m.write a v).read b = if b = a then v else m.read b := by
  simp only [Memory.read, Memory.write, Memory.readNat_writeNat _ _ h, BitVec.toNat_inj]

theorem Memory.write_wf {m : Memory} (h : m.wf = true) (a : Address) (v : Byte) : (m.write a v).wf = true :=
  Memory.writeNat_wfFrom v h (Nat.zero_le _) (by simpa using a.isLt)

theorem Memory.load_wf {m : Memory} (h : m.wf = true) (a : Address) (bytes : List Byte) :
    (m.load a bytes).wf = true := by
  induction bytes generalizing m a with
  | nil => exact h
  | cons b rest ih => exact ih (Memory.write_wf h a b) _

theorem setResetVector_mem_wf {s : State} (h : s.mem.wf = true) (rv : Address) :
    (setResetVector s rv).mem.wf = true :=
  Memory.write_wf (Memory.write_wf h _ _) _ _

theorem placeAtPc_mem_wf {s : State} (h : s.mem.wf = true) (bytes : List Byte) :
    (placeAtPc s bytes).mem.wf = true :=
  Memory.load_wf h _ _

theorem reset_mem_wf : State.reset.mem.wf = true := by decide

end Sys2Proof.Machine
end

