-- ==== Sys2Proof/Laws/State.lean ====
section
/-! SUPPORT. One lemma per field of the state per update, each true by rfl, so that no proof unfolds a record update. -/

namespace Sys2Proof.Machine

/-! ### `setReg .a` -/

@[simp] theorem State.setReg_a_pc (s : State) (v : Byte) : (s.setReg .a v).pc = s.pc := rfl
@[simp] theorem State.setReg_a_a (s : State) (v : Byte) : (s.setReg .a v).a = v := rfl
@[simp] theorem State.setReg_a_x (s : State) (v : Byte) : (s.setReg .a v).x = s.x := rfl
@[simp] theorem State.setReg_a_y (s : State) (v : Byte) : (s.setReg .a v).y = s.y := rfl
@[simp] theorem State.setReg_a_sp (s : State) (v : Byte) : (s.setReg .a v).sp = s.sp := rfl
@[simp] theorem State.setReg_a_status (s : State) (v : Byte) : (s.setReg .a v).status = s.status := rfl
@[simp] theorem State.setReg_a_runState (s : State) (v : Byte) : (s.setReg .a v).runState = s.runState := rfl
@[simp] theorem State.setReg_a_mem (s : State) (v : Byte) : (s.setReg .a v).mem = s.mem := rfl
@[simp] theorem State.setReg_a_devices (s : State) (v : Byte) : (s.setReg .a v).devices = s.devices := rfl
@[simp] theorem State.setReg_a_sinkFails (s : State) (v : Byte) : (s.setReg .a v).sinkFails = s.sinkFails := rfl

/-! ### `setReg .x` -/

@[simp] theorem State.setReg_x_pc (s : State) (v : Byte) : (s.setReg .x v).pc = s.pc := rfl
@[simp] theorem State.setReg_x_a (s : State) (v : Byte) : (s.setReg .x v).a = s.a := rfl
@[simp] theorem State.setReg_x_x (s : State) (v : Byte) : (s.setReg .x v).x = v := rfl
@[simp] theorem State.setReg_x_y (s : State) (v : Byte) : (s.setReg .x v).y = s.y := rfl
@[simp] theorem State.setReg_x_sp (s : State) (v : Byte) : (s.setReg .x v).sp = s.sp := rfl
@[simp] theorem State.setReg_x_status (s : State) (v : Byte) : (s.setReg .x v).status = s.status := rfl
@[simp] theorem State.setReg_x_runState (s : State) (v : Byte) : (s.setReg .x v).runState = s.runState := rfl
@[simp] theorem State.setReg_x_mem (s : State) (v : Byte) : (s.setReg .x v).mem = s.mem := rfl
@[simp] theorem State.setReg_x_devices (s : State) (v : Byte) : (s.setReg .x v).devices = s.devices := rfl
@[simp] theorem State.setReg_x_sinkFails (s : State) (v : Byte) : (s.setReg .x v).sinkFails = s.sinkFails := rfl

/-! ### `setReg .y` -/

@[simp] theorem State.setReg_y_pc (s : State) (v : Byte) : (s.setReg .y v).pc = s.pc := rfl
@[simp] theorem State.setReg_y_a (s : State) (v : Byte) : (s.setReg .y v).a = s.a := rfl
@[simp] theorem State.setReg_y_x (s : State) (v : Byte) : (s.setReg .y v).x = s.x := rfl
@[simp] theorem State.setReg_y_y (s : State) (v : Byte) : (s.setReg .y v).y = v := rfl
@[simp] theorem State.setReg_y_sp (s : State) (v : Byte) : (s.setReg .y v).sp = s.sp := rfl
@[simp] theorem State.setReg_y_status (s : State) (v : Byte) : (s.setReg .y v).status = s.status := rfl
@[simp] theorem State.setReg_y_runState (s : State) (v : Byte) : (s.setReg .y v).runState = s.runState := rfl
@[simp] theorem State.setReg_y_mem (s : State) (v : Byte) : (s.setReg .y v).mem = s.mem := rfl
@[simp] theorem State.setReg_y_devices (s : State) (v : Byte) : (s.setReg .y v).devices = s.devices := rfl
@[simp] theorem State.setReg_y_sinkFails (s : State) (v : Byte) : (s.setReg .y v).sinkFails = s.sinkFails := rfl

/-! ### `setReg .sp` -/

@[simp] theorem State.setReg_sp_pc (s : State) (v : Byte) : (s.setReg .sp v).pc = s.pc := rfl
@[simp] theorem State.setReg_sp_a (s : State) (v : Byte) : (s.setReg .sp v).a = s.a := rfl
@[simp] theorem State.setReg_sp_x (s : State) (v : Byte) : (s.setReg .sp v).x = s.x := rfl
@[simp] theorem State.setReg_sp_y (s : State) (v : Byte) : (s.setReg .sp v).y = s.y := rfl
@[simp] theorem State.setReg_sp_sp (s : State) (v : Byte) : (s.setReg .sp v).sp = v := rfl
@[simp] theorem State.setReg_sp_status (s : State) (v : Byte) : (s.setReg .sp v).status = s.status := rfl
@[simp] theorem State.setReg_sp_runState (s : State) (v : Byte) : (s.setReg .sp v).runState = s.runState := rfl
@[simp] theorem State.setReg_sp_mem (s : State) (v : Byte) : (s.setReg .sp v).mem = s.mem := rfl
@[simp] theorem State.setReg_sp_devices (s : State) (v : Byte) : (s.setReg .sp v).devices = s.devices := rfl
@[simp] theorem State.setReg_sp_sinkFails (s : State) (v : Byte) : (s.setReg .sp v).sinkFails = s.sinkFails := rfl

/-! ### `setPc` -/

@[simp] theorem State.setPc_pc (s : State) (t : Address) : (s.setPc t).pc = t := rfl
@[simp] theorem State.setPc_a (s : State) (t : Address) : (s.setPc t).a = s.a := rfl
@[simp] theorem State.setPc_x (s : State) (t : Address) : (s.setPc t).x = s.x := rfl
@[simp] theorem State.setPc_y (s : State) (t : Address) : (s.setPc t).y = s.y := rfl
@[simp] theorem State.setPc_sp (s : State) (t : Address) : (s.setPc t).sp = s.sp := rfl
@[simp] theorem State.setPc_status (s : State) (t : Address) : (s.setPc t).status = s.status := rfl
@[simp] theorem State.setPc_runState (s : State) (t : Address) : (s.setPc t).runState = s.runState := rfl
@[simp] theorem State.setPc_mem (s : State) (t : Address) : (s.setPc t).mem = s.mem := rfl
@[simp] theorem State.setPc_devices (s : State) (t : Address) : (s.setPc t).devices = s.devices := rfl
@[simp] theorem State.setPc_sinkFails (s : State) (t : Address) : (s.setPc t).sinkFails = s.sinkFails := rfl

/-! ### `advance` -/

@[simp] theorem State.advance_pc (s : State) (n : Address) : (s.advance n).pc = s.pc + n := rfl
@[simp] theorem State.advance_a (s : State) (n : Address) : (s.advance n).a = s.a := rfl
@[simp] theorem State.advance_x (s : State) (n : Address) : (s.advance n).x = s.x := rfl
@[simp] theorem State.advance_y (s : State) (n : Address) : (s.advance n).y = s.y := rfl
@[simp] theorem State.advance_sp (s : State) (n : Address) : (s.advance n).sp = s.sp := rfl
@[simp] theorem State.advance_status (s : State) (n : Address) : (s.advance n).status = s.status := rfl
@[simp] theorem State.advance_runState (s : State) (n : Address) : (s.advance n).runState = s.runState := rfl
@[simp] theorem State.advance_mem (s : State) (n : Address) : (s.advance n).mem = s.mem := rfl
@[simp] theorem State.advance_devices (s : State) (n : Address) : (s.advance n).devices = s.devices := rfl
@[simp] theorem State.advance_sinkFails (s : State) (n : Address) : (s.advance n).sinkFails = s.sinkFails := rfl

/-! ### `setDevice` -/

@[simp] theorem State.setDevice_pc (s : State) (k : Nat) (d : Device) : (s.setDevice k d).pc = s.pc := rfl
@[simp] theorem State.setDevice_a (s : State) (k : Nat) (d : Device) : (s.setDevice k d).a = s.a := rfl
@[simp] theorem State.setDevice_x (s : State) (k : Nat) (d : Device) : (s.setDevice k d).x = s.x := rfl
@[simp] theorem State.setDevice_y (s : State) (k : Nat) (d : Device) : (s.setDevice k d).y = s.y := rfl
@[simp] theorem State.setDevice_sp (s : State) (k : Nat) (d : Device) : (s.setDevice k d).sp = s.sp := rfl
@[simp] theorem State.setDevice_status (s : State) (k : Nat) (d : Device) : (s.setDevice k d).status = s.status := rfl
@[simp] theorem State.setDevice_runState (s : State) (k : Nat) (d : Device) : (s.setDevice k d).runState = s.runState := rfl
@[simp] theorem State.setDevice_mem (s : State) (k : Nat) (d : Device) : (s.setDevice k d).mem = s.mem := rfl
@[simp] theorem State.setDevice_devices (s : State) (k : Nat) (d : Device) : (s.setDevice k d).devices = s.devices.set k d := rfl
@[simp] theorem State.setDevice_sinkFails (s : State) (k : Nat) (d : Device) : (s.setDevice k d).sinkFails = s.sinkFails := rfl

/-! ### `store` -/

@[simp] theorem State.store_pc (s : State) (b : Address) (v : Byte) : (s.store b v).pc = s.pc := rfl
@[simp] theorem State.store_a (s : State) (b : Address) (v : Byte) : (s.store b v).a = s.a := rfl
@[simp] theorem State.store_x (s : State) (b : Address) (v : Byte) : (s.store b v).x = s.x := rfl
@[simp] theorem State.store_y (s : State) (b : Address) (v : Byte) : (s.store b v).y = s.y := rfl
@[simp] theorem State.store_sp (s : State) (b : Address) (v : Byte) : (s.store b v).sp = s.sp := rfl
@[simp] theorem State.store_status (s : State) (b : Address) (v : Byte) : (s.store b v).status = s.status := rfl
@[simp] theorem State.store_runState (s : State) (b : Address) (v : Byte) : (s.store b v).runState = s.runState := rfl
@[simp] theorem State.store_mem (s : State) (b : Address) (v : Byte) : (s.store b v).mem = s.mem.write b v := rfl
@[simp] theorem State.store_devices (s : State) (b : Address) (v : Byte) : (s.store b v).devices = s.devices := rfl
@[simp] theorem State.store_sinkFails (s : State) (b : Address) (v : Byte) : (s.store b v).sinkFails = s.sinkFails := rfl

/-! ### `raise` -/

@[simp] theorem State.raise_pc (s : State) (c : StopCause) : (s.raise c).pc = s.pc := rfl
@[simp] theorem State.raise_a (s : State) (c : StopCause) : (s.raise c).a = s.a := rfl
@[simp] theorem State.raise_x (s : State) (c : StopCause) : (s.raise c).x = s.x := rfl
@[simp] theorem State.raise_y (s : State) (c : StopCause) : (s.raise c).y = s.y := rfl
@[simp] theorem State.raise_sp (s : State) (c : StopCause) : (s.raise c).sp = s.sp := rfl
@[simp] theorem State.raise_status (s : State) (c : StopCause) : (s.raise c).status = s.status := rfl
@[simp] theorem State.raise_runState (s : State) (c : StopCause) : (s.raise c).runState = c.runState := rfl
@[simp] theorem State.raise_mem (s : State) (c : StopCause) : (s.raise c).mem = s.mem := rfl
@[simp] theorem State.raise_devices (s : State) (c : StopCause) : (s.raise c).devices = s.devices := rfl
@[simp] theorem State.raise_sinkFails (s : State) (c : StopCause) : (s.raise c).sinkFails = s.sinkFails := rfl

/-! ### `compareReg` -/

@[simp] theorem State.compareReg_pc (s : State) (r : Reg) (v : Byte) : (s.compareReg r v).pc = s.pc := rfl
@[simp] theorem State.compareReg_a (s : State) (r : Reg) (v : Byte) : (s.compareReg r v).a = s.a := rfl
@[simp] theorem State.compareReg_x (s : State) (r : Reg) (v : Byte) : (s.compareReg r v).x = s.x := rfl
@[simp] theorem State.compareReg_y (s : State) (r : Reg) (v : Byte) : (s.compareReg r v).y = s.y := rfl
@[simp] theorem State.compareReg_sp (s : State) (r : Reg) (v : Byte) : (s.compareReg r v).sp = s.sp := rfl
@[simp] theorem State.compareReg_status (s : State) (r : Reg) (v : Byte) : (s.compareReg r v).status = s.status.compare (s.reg r) v := rfl
@[simp] theorem State.compareReg_runState (s : State) (r : Reg) (v : Byte) : (s.compareReg r v).runState = s.runState := rfl
@[simp] theorem State.compareReg_mem (s : State) (r : Reg) (v : Byte) : (s.compareReg r v).mem = s.mem := rfl
@[simp] theorem State.compareReg_devices (s : State) (r : Reg) (v : Byte) : (s.compareReg r v).devices = s.devices := rfl
@[simp] theorem State.compareReg_sinkFails (s : State) (r : Reg) (v : Byte) : (s.compareReg r v).sinkFails = s.sinkFails := rfl

/-! ### `resetMachine` -/

@[simp] theorem State.resetMachine_pc (s : State) : (resetMachine s).pc = littleEndian (s.mem.read Config.resetVectorAddr) (s.mem.read (Config.resetVectorAddr + 1#16)) := rfl
@[simp] theorem State.resetMachine_a (s : State) : (resetMachine s).a = s.a := rfl
@[simp] theorem State.resetMachine_x (s : State) : (resetMachine s).x = s.x := rfl
@[simp] theorem State.resetMachine_y (s : State) : (resetMachine s).y = s.y := rfl
@[simp] theorem State.resetMachine_sp (s : State) : (resetMachine s).sp = s.sp := rfl
@[simp] theorem State.resetMachine_status (s : State) : (resetMachine s).status = s.status := rfl
@[simp] theorem State.resetMachine_runState (s : State) : (resetMachine s).runState = .running := rfl
@[simp] theorem State.resetMachine_mem (s : State) : (resetMachine s).mem = s.mem := rfl
@[simp] theorem State.resetMachine_devices (s : State) : (resetMachine s).devices = s.devices := rfl
@[simp] theorem State.resetMachine_sinkFails (s : State) : (resetMachine s).sinkFails = s.sinkFails := rfl

/-! ### Reading a register or a flag, and the latch of a stop -/

@[simp] theorem State.reg_a (s : State) : s.reg .a = s.a := rfl
@[simp] theorem State.reg_x (s : State) : s.reg .x = s.x := rfl
@[simp] theorem State.reg_y (s : State) : s.reg .y = s.y := rfl
@[simp] theorem State.reg_sp (s : State) : s.reg .sp = s.sp := rfl
@[simp] theorem Status.flag_c (p : Status) : p.flag .c = p.carry := rfl
@[simp] theorem Status.flag_z (p : Status) : p.flag .z = p.zero := rfl
@[simp] theorem Status.flag_n (p : Status) : p.flag .n = p.negative := rfl
@[simp] theorem Status.setFlag_c_carry (p : Status) (b : Bool) : (p.setFlag .c b).carry = b := rfl
@[simp] theorem Status.setFlag_c_zero (p : Status) (b : Bool) : (p.setFlag .c b).zero = p.zero := rfl
@[simp] theorem Status.setFlag_c_negative (p : Status) (b : Bool) : (p.setFlag .c b).negative = p.negative := rfl
@[simp] theorem Status.setFlag_c_dormant (p : Status) (b : Bool) : (p.setFlag .c b).dormant = p.dormant := rfl
@[simp] theorem Status.setFlag_z_carry (p : Status) (b : Bool) : (p.setFlag .z b).carry = p.carry := rfl
@[simp] theorem Status.setFlag_z_zero (p : Status) (b : Bool) : (p.setFlag .z b).zero = b := rfl
@[simp] theorem Status.setFlag_z_negative (p : Status) (b : Bool) : (p.setFlag .z b).negative = p.negative := rfl
@[simp] theorem Status.setFlag_z_dormant (p : Status) (b : Bool) : (p.setFlag .z b).dormant = p.dormant := rfl
@[simp] theorem Status.setFlag_n_carry (p : Status) (b : Bool) : (p.setFlag .n b).carry = p.carry := rfl
@[simp] theorem Status.setFlag_n_zero (p : Status) (b : Bool) : (p.setFlag .n b).zero = p.zero := rfl
@[simp] theorem Status.setFlag_n_negative (p : Status) (b : Bool) : (p.setFlag .n b).negative = b := rfl
@[simp] theorem Status.setFlag_n_dormant (p : Status) (b : Bool) : (p.setFlag .n b).dormant = p.dormant := rfl
@[simp] theorem StopCause.runState_halt : StopCause.runState .halt = .halted := rfl
@[simp] theorem StopCause.runState_fault (c : FaultCause) : StopCause.runState (.fault c) = .faulted c := rfl

end Sys2Proof.Machine
end

