-- ==== Sys2Proof/Laws/Bus.lean ====
section
/-! SUPPORT. What a bus access, a fetch and a comparison can do, said once. -/

namespace Sys2Proof.Machine

/-- An entry of the device table names a registered device that claims the address. -/
theorem mapDevices_some {ds : List Device} {k j : Nat} {a : Address} {prior : Option (Nat × Device)} {d : Device}
    (h : mapDevices k a prior ds = some (j, d)) :
    prior = some (j, d) ∨ (k ≤ j ∧ ds[j - k]? = some d ∧ d.claims a = true) := by
  induction ds generalizing k prior with
  | nil => exact .inl h
  | cons e rest ih =>
    rcases ih h with hp | ⟨hk, hd, hc⟩
    · unfold mapDevice at hp
      split at hp
      · rename_i hc
        simp only [Option.some.injEq, Prod.mk.injEq] at hp
        obtain ⟨rfl, rfl⟩ := hp
        exact .inr ⟨le_rfl, by simp, hc⟩
      · exact .inl hp
    · refine .inr ⟨by omega, ?_, hc⟩
      have e1 : j - k = (j - (k + 1)) + 1 := by omega
      simpa [e1] using hd

theorem State.deviceAt_some {s : State} {a : Address} {k : Nat} {d : Device} (h : s.deviceAt a = some (k, d)) :
    s.devices[k]? = some d ∧ d.claims a = true := by
  rcases mapDevices_some h with hp | ⟨_, hd, hc⟩
  · cases hp
  · exact ⟨hd, hc⟩

/-- All a bus read can do: the raw byte and no change where no device claims the address; else the device's read hook
decides, and only that device's own state changes. -/
theorem busRead_cases (s : State) (a : Address) :
    (s.deviceAt a = none ∧ busRead s a = (s.mem.read a, s)) ∨
      ∃ k d, s.deviceAt a = some (k, d) ∧
        busRead s a =
          (if (d.read a).handled then (d.read a).value else s.mem.read a, s.setDevice k (d.read a).device) := by
  unfold busRead
  cases h : s.deviceAt a with
  | none => exact .inl ⟨rfl, rfl⟩
  | some kd => exact .inr ⟨kd.1, kd.2, rfl, rfl⟩

theorem busRead_of_unclaimed {s : State} {a : Address} (h : s.deviceAt a = none) : busRead s a = (s.mem.read a, s) := by
  simp [busRead, h]

/-- All a bus write can do: the raw store where no device claims the address; else the hook and then the store, or a
failed hook and no store. -/
theorem busWrite_cases (s : State) (a : Address) (v : Byte) :
    (s.deviceAt a = none ∧ busWrite s a v = .stored (s.store a v)) ∨
      ∃ k d, s.deviceAt a = some (k, d) ∧
        ((∃ d' handled, d.write s.sinkFails a v = .done d' handled ∧
            busWrite s a v = .stored ((s.setDevice k d').store a v)) ∨
          ∃ d', d.write s.sinkFails a v = .ioFailure d' ∧ busWrite s a v = .failed (s.setDevice k d')) := by
  unfold busWrite
  cases h : s.deviceAt a with
  | none => exact .inl ⟨rfl, rfl⟩
  | some kd =>
    refine .inr ⟨kd.1, kd.2, rfl, ?_⟩
    cases hw : kd.2.write s.sinkFails a v with
    | done d' handled => exact .inl ⟨d', handled, rfl, by simp [hw]⟩
    | ioFailure d' => exact .inr ⟨d', rfl, by simp [hw]⟩

/-- A bus read changes nothing but the devices. -/
theorem busRead_state (s : State) (a : Address) : (busRead s a).2 = { s with devices := (busRead s a).2.devices } := by
  rcases busRead_cases s a with ⟨_, h⟩ | ⟨k, d, _, h⟩
  · rw [h]
  · rw [h]; rfl

@[simp] theorem busRead_pc (s : State) (a : Address) : (busRead s a).2.pc = s.pc := by rw [busRead_state]
@[simp] theorem busRead_a (s : State) (a : Address) : (busRead s a).2.a = s.a := by rw [busRead_state]
@[simp] theorem busRead_x (s : State) (a : Address) : (busRead s a).2.x = s.x := by rw [busRead_state]
@[simp] theorem busRead_y (s : State) (a : Address) : (busRead s a).2.y = s.y := by rw [busRead_state]
@[simp] theorem busRead_sp (s : State) (a : Address) : (busRead s a).2.sp = s.sp := by rw [busRead_state]
@[simp] theorem busRead_status (s : State) (a : Address) : (busRead s a).2.status = s.status := by rw [busRead_state]
@[simp] theorem busRead_runState (s : State) (a : Address) : (busRead s a).2.runState = s.runState := by
  rw [busRead_state]
@[simp] theorem busRead_mem (s : State) (a : Address) : (busRead s a).2.mem = s.mem := by rw [busRead_state]
@[simp] theorem busRead_sinkFails (s : State) (a : Address) : (busRead s a).2.sinkFails = s.sinkFails := by
  rw [busRead_state]

/-- The sink declines every read and is unchanged by it (spec/60_exceptions.md R214). -/
theorem Device.read_charOut (out : List Byte) (n : Nat) (a : Address) :
    (Device.charOut out n).read a = { device := .charOut out n, value := 0#8, handled := false } := rfl

/-- All the read hook can do to a device: its range and, for the sink, its whole state stay. -/
theorem Device.read_wf (d : Device) (a : Address) : (d.read a).device.wf = d.wf ∧ (d.read a).device.range = d.range := by
  cases d <;> exact ⟨rfl, rfl⟩

/-- The device a write hook leaves, whether or not it failed. -/
def WriteReply.device : WriteReply → Device
  | .done d _ => d
  | .ioFailure d => d

/-- All the write hook of the sink can do (spec/60_exceptions.md R214). -/
theorem Device.write_charOut (fails : List Nat) (out : List Byte) (n : Nat) (a : Address) (v : Byte) :
    (a ≠ Config.sinkRange.first ∧ (Device.charOut out n).write fails a v = .done (.charOut out n) false) ∨
      (a = Config.sinkRange.first ∧ n ∈ fails ∧
        (Device.charOut out n).write fails a v = .ioFailure (.charOut out n)) ∨
      (a = Config.sinkRange.first ∧ n ∉ fails ∧
        (Device.charOut out n).write fails a v = .done (.charOut (out ++ [v]) (n + 1)) true) := by
  by_cases ha : a = Config.sinkRange.first <;> by_cases hn : n ∈ fails <;> simp [Device.write, ha, hn]

/-- All the write hook of another device can do: whatever the platform's hook answers, the device keeps its range. -/
theorem Device.write_custom (fails : List Nat) (id : Nat) (r : AddressRange) (data : Nat) (a : Address) (v : Byte) :
    ∃ data', (∃ handled, (Device.custom id r data).write fails a v = .done (.custom id r data') handled) ∨
      (Device.custom id r data).write fails a v = .ioFailure (.custom id r data') := by
  refine ⟨(Config.customWrite id data a v).1, ?_⟩
  cases h : (Config.customWrite id data a v).2 with
  | some handled => exact .inl ⟨handled, by simp [Device.write, h]⟩
  | none => exact .inr (by simp [Device.write, h])

/-- All the write hook can do to a device's well-formedness and range. -/
theorem Device.write_wf (fails : List Nat) (d : Device) (a : Address) (v : Byte) (h : d.wf = true) :
    (d.write fails a v).device.wf = true ∧ (d.write fails a v).device.range = d.range := by
  cases d with
  | charOut out n =>
    have hn : n = out.length := by simpa [Device.wf] using h
    rcases Device.write_charOut fails out n a v with ⟨_, e⟩ | ⟨_, _, e⟩ | ⟨_, _, e⟩ <;> rw [e] <;>
      simp [WriteReply.device, Device.wf, Device.range, hn]
  | custom id r data =>
    obtain ⟨data', ⟨handled, e⟩ | e⟩ := Device.write_custom fails id r data a v <;> rw [e] <;> exact ⟨h, rfl⟩

/-- All the fetch can do: it reads one, two or three bytes at ascending addresses, each in the state the read before
left, and decodes them. -/
theorem fetch_cases (s : State) :
    fetch s =
        (decode (busRead s s.pc).1 0#8 0#8, (busRead s s.pc).2) ∨
      (∃ r1, r1 = busRead (busRead s s.pc).2 (s.pc + 1#16) ∧
        fetch s = (decode (busRead s s.pc).1 r1.1 0#8, r1.2)) ∨
      ∃ r1 r2, r1 = busRead (busRead s s.pc).2 (s.pc + 1#16) ∧ r2 = busRead r1.2 (s.pc + 2#16) ∧
        fetch s = (decode (busRead s s.pc).1 r1.1 r2.1, r2.2) := by
  unfold fetch
  dsimp only
  split
  · exact .inr (.inl ⟨_, rfl, rfl⟩)
  · exact .inr (.inr ⟨_, _, rfl, rfl, rfl⟩)
  · exact .inl rfl

/-- A fetch changes nothing but the devices. -/
theorem fetch_state (s : State) : (fetch s).2 = { s with devices := (fetch s).2.devices } := by
  rcases fetch_cases s with h | ⟨r1, rfl, h⟩ | ⟨r1, r2, rfl, rfl, h⟩ <;> rw [h]
  · exact busRead_state _ _
  · rw [busRead_state, busRead_state s]
  · rw [busRead_state, busRead_state (busRead s s.pc).2, busRead_state s]

@[simp] theorem fetch_pc (s : State) : (fetch s).2.pc = s.pc := by rw [fetch_state]
@[simp] theorem fetch_a (s : State) : (fetch s).2.a = s.a := by rw [fetch_state]
@[simp] theorem fetch_x (s : State) : (fetch s).2.x = s.x := by rw [fetch_state]
@[simp] theorem fetch_y (s : State) : (fetch s).2.y = s.y := by rw [fetch_state]
@[simp] theorem fetch_sp (s : State) : (fetch s).2.sp = s.sp := by rw [fetch_state]
@[simp] theorem fetch_status (s : State) : (fetch s).2.status = s.status := by rw [fetch_state]
@[simp] theorem fetch_runState (s : State) : (fetch s).2.runState = s.runState := by rw [fetch_state]
@[simp] theorem fetch_mem (s : State) : (fetch s).2.mem = s.mem := by rw [fetch_state]
@[simp] theorem fetch_sinkFails (s : State) : (fetch s).2.sinkFails = s.sinkFails := by rw [fetch_state]

/-- All a comparison can do to the status (spec/45_compare.md R165). -/
theorem Status.compare_cases (p : Status) (a b : Byte) :
    (a < b ∧ p.compare a b = { p with zero := false, carry := false }) ∨
      (b < a ∧ p.compare a b = { p with zero := false, carry := true }) ∨
      (a = b ∧ p.compare a b = { p with zero := true, carry := true, negative := false }) := by
  unfold Status.compare
  split_ifs with h1 h2
  · exact .inl ⟨h1, rfl⟩
  · exact .inr (.inl ⟨h2, rfl⟩)
  · exact .inr (.inr ⟨BitVec.le_antisymm (BitVec.not_lt.mp h2) (BitVec.not_lt.mp h1), rfl⟩)

end Sys2Proof.Machine
end

