-- ==== Sys2Proof/Laws/Decode.lean ====
section
/-! SUPPORT. The two-byte quantity, and how much of the bytes the decoder looks at. -/

namespace Sys2Proof

theorem littleEndian_toNat (low high : Byte) : (littleEndian low high).toNat = high.toNat * 256 + low.toNat := by
  have := low.isLt
  rw [littleEndian, BitVec.toNat_append, Nat.shiftLeft_eq, Nat.mul_comm, ← Nat.two_pow_add_eq_or_of_lt (by omega)]

theorem lowByte_toNat (v : Address) : (lowByte v).toNat = v.toNat % 256 := by
  simp [lowByte, BitVec.extractLsb'_toNat]

theorem highByte_toNat (v : Address) : (highByte v).toNat = v.toNat / 256 := by
  have := v.isLt
  simp only [highByte, BitVec.extractLsb'_toNat, Nat.shiftRight_eq_div_pow]
  omega

/-- A 16-bit quantity is its low byte and its high byte. -/
@[simp] theorem littleEndian_low_high (v : Address) : littleEndian (lowByte v) (highByte v) = v := by
  apply BitVec.eq_of_toNat_eq
  rw [littleEndian_toNat, lowByte_toNat, highByte_toNat]
  omega

@[simp] theorem lowByte_littleEndian (low high : Byte) : lowByte (littleEndian low high) = low := by
  apply BitVec.eq_of_toNat_eq
  have := low.isLt
  rw [lowByte_toNat, littleEndian_toNat]
  omega

@[simp] theorem highByte_littleEndian (low high : Byte) : highByte (littleEndian low high) = high := by
  apply BitVec.eq_of_toNat_eq
  have := low.isLt
  rw [highByte_toNat, littleEndian_toNat]
  omega

/-- `hi:lo` of spec/00_scope.md R8 as arithmetic. -/
theorem littleEndian_eq_ofNat (low high : Byte) :
    littleEndian low high = BitVec.ofNat 16 (high.toNat * 256 + low.toNat) := by
  apply BitVec.eq_of_toNat_eq
  have := low.isLt
  have := high.isLt
  rw [littleEndian_toNat, BitVec.toNat_ofNat]
  omega

/-- The opcode byte of what decodes announces its format. -/
theorem formatOf_of_decode {op b1 b2 : Byte} {i : Instr} (h : decode op b1 b2 = .ok i) :
    formatOf op = some i.format := by
  unfold decode at h
  split at h <;> cases h <;> rfl

/-- An opcode byte without a format is rejected by name. -/
theorem decode_of_formatOf_none {op : Byte} (b1 b2 : Byte) (h : formatOf op = none) :
    decode op b1 b2 = .error (.illegalOpcode op) := by
  unfold formatOf at h
  split at h <;> cases h
  unfold decode
  split <;> first | rfl | contradiction

/-- A rejected opcode byte has no format, and the rejection names it. -/
theorem formatOf_of_decode_error {op b1 b2 : Byte} {e : DecodeError} (h : decode op b1 b2 = .error e) :
    formatOf op = none ∧ e = .illegalOpcode op := by
  unfold decode at h
  split at h <;> cases h
  refine ⟨?_, rfl⟩
  unfold formatOf
  split <;> first | rfl | contradiction

/-- The operand bytes a format does not have are not looked at. -/
theorem decode_ignores_missing_operands {op : Byte} {f : Format} (h : formatOf op = some f) (b1 b2 : Byte) :
    (f.operandBytes = 0 → decode op b1 b2 = decode op 0#8 0#8) ∧
      (f.operandBytes = 1 → decode op b1 b2 = decode op b1 0#8) := by
  unfold formatOf at h
  split at h <;> cases h <;> exact ⟨fun h => by cases h <;> rfl, fun h => by cases h <;> rfl⟩

end Sys2Proof
end

