-- ==== Sys2Proof/Laws/PerInstr.lean ====
section
/-! SUPPORT. Per-instruction facts about the encoding: the family EncodedLength. -/

namespace Sys2Proof.Laws

/-- The instruction is well formed (spec/30_encoding.md R100), its encoding has as many bytes as its length says, and
its opcode byte announces its format, so that the opcode alone tells the length (spec/30_encoding.md R98). -/
def EncodedLength.Statement (i : Instr) : Prop :=
  i.wf = true ∧ (encode i).length = i.length ∧ formatOf ((encode i).getD 0 0#8) = some i.format

theorem EncodedLength.halt : EncodedLength.Statement .halt := ⟨rfl, rfl, rfl⟩
theorem EncodedLength.inx : EncodedLength.Statement .inx := ⟨rfl, rfl, rfl⟩
theorem EncodedLength.iny : EncodedLength.Statement .iny := ⟨rfl, rfl, rfl⟩
theorem EncodedLength.ldaImmediate (imm8 : Byte) : EncodedLength.Statement (.ldaImmediate imm8) := ⟨rfl, rfl, rfl⟩
theorem EncodedLength.ldaAbsX (addr16 : Address) : EncodedLength.Statement (.ldaAbsX addr16) := ⟨rfl, rfl, rfl⟩
theorem EncodedLength.ldxImmediate (imm8 : Byte) : EncodedLength.Statement (.ldxImmediate imm8) := ⟨rfl, rfl, rfl⟩
theorem EncodedLength.ldyImmediate (imm8 : Byte) : EncodedLength.Statement (.ldyImmediate imm8) := ⟨rfl, rfl, rfl⟩
theorem EncodedLength.staAbs (addr16 : Address) : EncodedLength.Statement (.staAbs addr16) := ⟨rfl, rfl, rfl⟩
theorem EncodedLength.jmpAbs (addr16 : Address) : EncodedLength.Statement (.jmpAbs addr16) := ⟨rfl, rfl, rfl⟩
theorem EncodedLength.cpx (imm8 : Byte) : EncodedLength.Statement (.cpx imm8) := ⟨rfl, rfl, rfl⟩
theorem EncodedLength.cmp (imm8 : Byte) : EncodedLength.Statement (.cmp imm8) := ⟨rfl, rfl, rfl⟩
theorem EncodedLength.bne (rel8 : Byte) : EncodedLength.Statement (.bne rel8) := ⟨rfl, rfl, rfl⟩
theorem EncodedLength.beq (rel8 : Byte) : EncodedLength.Statement (.beq rel8) := ⟨rfl, rfl, rfl⟩

/-- An instruction is one to three bytes long (spec/30_encoding.md R90). -/
theorem instr_length_bounds (i : Instr) : 1 ≤ i.length ∧ i.length ≤ 3 := by
  cases i <;> simp [Instr.length, Instr.format, Format.operandBytes]

end Sys2Proof.Laws
end

