-- ==== Sys2Proof/Laws/Step.lean ====
section
/-! SUPPORT. All a step can do, said once: proofs about `step` cite these and do not unfold it. -/

namespace Sys2Proof.Machine

theorem step_of_halted {s : State} (h : s.runState = .halted) : step s = .refused .notRunning := by
  simp [step, cycle, h]

theorem step_of_faulted {s : State} {c : FaultCause} (h : s.runState = .faulted c) : step s = .refused .notRunning := by
  simp [step, cycle, h]

theorem step_of_running {s : State} (h : s.runState = .running) : step s = runCycle s := by
  simp [step, cycle, h]

/-- Every instruction but HALT runs on the state its fetch leaves. -/
theorem executedOn_of_ne_halt {i : Instr} (h : i ≠ .halt) (before fetched : State) :
    executedOn i before fetched = fetched := by
  simp [executedOn, h]

/-- HALT runs on the state its fetch leaves or on the one before it, as `Config.haltKeepsFetch` says: where the fetch
changed no device the two are one. -/
theorem executedOn_halt {s s' : State} {r : Except DecodeError Instr} (h : fetch s = (r, s')) :
    executedOn .halt s s' = if Config.haltKeepsFetch = true then s' else s := by
  have fetched : s' = { s with devices := s'.devices } := by simpa [h] using fetch_state s
  unfold executedOn
  by_cases keeps : Config.haltKeepsFetch = true
  · simp [keeps]
  · by_cases same : s'.devices = s.devices
    · rw [same] at fetched
      simp [keeps, fetched]
    · simp [keeps, same]

/-- A running machine whose fetch decodes steps by the meaning of what it fetched. -/
theorem step_of_fetch_ok {s s' : State} {i : Instr} (hr : s.runState = .running) (h : fetch s = (.ok i, s'))
    (hi : i ≠ .halt) : step s = exec i s' := by
  rw [step_of_running hr, runCycle, h]
  exact congrArg (exec i) (executedOn_of_ne_halt hi s s')

/-- A running machine whose fetch decodes to HALT halts. -/
theorem step_of_fetch_halt {s s' : State} (hr : s.runState = .running) (h : fetch s = (.ok .halt, s')) :
    step s = exec .halt (if Config.haltKeepsFetch = true then s' else s) := by
  rw [step_of_running hr, runCycle, h]
  exact congrArg (exec .halt) (executedOn_halt h)

/-- Where the fetch changes nothing, a running machine steps by the meaning of what it fetched, HALT or not. -/
theorem step_of_fetch_same {s : State} {i : Instr} (hr : s.runState = .running) (h : fetch s = (.ok i, s)) :
    step s = exec i s := by
  by_cases hi : i = .halt
  · subst hi
    rw [step_of_fetch_halt hr h, ite_self]
  · exact step_of_fetch_ok hr h hi

/-- A running machine whose fetch is rejected stops. -/
theorem step_of_fetch_error {s s' : State} {op : Byte} (hr : s.runState = .running)
    (h : fetch s = (.error (.illegalOpcode op), s')) :
    step s = .next (s'.raise (.fault (.illegalOpcode op s.pc))) := by
  have pc := fetch_pc s
  rw [h] at pc
  rw [step_of_running hr, runCycle, h, ← pc]
  rfl

/-- All a step that answers a next state can do: the machine was running, and the fetched bytes decode to an instruction
other than HALT, whose meaning on the state the fetch leaves the step is; or to HALT; or the opcode byte is illegal, and
the step is that stop. -/
theorem step_cases {s t : State} (h : step s = .next t) :
    s.runState = .running ∧
      ((∃ i s', fetch s = (.ok i, s') ∧ i ≠ .halt ∧ exec i s' = .next t) ∨
        (∃ s', fetch s = (.ok .halt, s') ∧ t = (if Config.haltKeepsFetch = true then s' else s).raise .halt) ∨
        ∃ op s', fetch s = (.error (.illegalOpcode op), s') ∧ t = s'.raise (.fault (.illegalOpcode op s.pc))) := by
  cases hr : s.runState with
  | halted => rw [step_of_halted hr] at h; cases h
  | faulted c => rw [step_of_faulted hr] at h; cases h
  | running =>
    refine ⟨rfl, ?_⟩
    have total : ∃ r s', fetch s = (r, s') := ⟨_, _, rfl⟩
    obtain ⟨r, s', hf⟩ := total
    cases r with
    | ok i =>
      by_cases hi : i = .halt
      · subst hi
        rw [step_of_fetch_halt hr hf] at h
        exact .inr (.inl ⟨s', hf, by simpa [exec, execHalt] using h.symm⟩)
      · exact .inl ⟨i, s', hf, hi, by rw [← step_of_fetch_ok hr hf hi, h]⟩
    | error e =>
      cases e with
      | illegalOpcode op =>
        rw [step_of_fetch_error hr hf] at h
        exact .inr (.inr ⟨op, s', hf, by simpa using h.symm⟩)

end Sys2Proof.Machine
end

