-- ==== Sys2Proof/Tests/Slice0.lean ====
section
/-! SUPPORT. Our own tests: words written out from spec/30_encoding.md, one-step vectors of spec/95_test_vectors.md (V-...
names below), ill-formed terms that each check refuses, and for every obligation with hypotheses a state that meets
them. -/

namespace Sys2Proof.Tests

open Sys2Proof.Machine

/-- The reference machine after reset with bytes stored from `pc` on. -/
def loadedAt (pc : Address) (bytes : List Byte) : State :=
  { State.reset with pc := pc, mem := State.reset.mem.load pc bytes }

/-- The same at 0x8000. -/
def loaded (bytes : List Byte) : State := loadedAt 0x8000#16 bytes

/-- A part of the next state, where there is one. -/
def view {α : Type} (o : Host.Outcome State Fault Refusal) (f : State → α) : Option α :=
  match o with
  | .next s => some (f s)
  | .fault _ => none
  | .refused _ => none

/-- The three live flags: Z, C, N as the vectors list them. -/
def flags (s : State) : Bool × Bool × Bool := (s.status.zero, s.status.carry, s.status.negative)

/-- A status with the given Z, C, N. -/
def zcn (z c n : Bool) : Status := { carry := c, zero := z, negative := n, dormant := 0b10110#5 }

/-- A platform device at 0x9000. -/
def custom : Device := .custom 3 { first := 0x9000#16, last := 0x9000#16 } 7

/-- The reference machine with that device in the sink's place. -/
def withCustom : State := { State.reset with devices := [custom] }

/-- A reference machine whose second sink write fails, one byte emitted (V-STORE 6). -/
def failing : State :=
  { loaded [0x8D#8, 0x00#8, 0xC0#8] with
    a := 0x49#8, devices := [.charOut [0x48#8] 1], sinkFails := [1] }

/-! ### The checks refuse ill-formed terms (V-BUS 9, 10) -/

theorem smoke_inverted_range : AddressRange.wf { first := 0x9001#16, last := 0x9000#16 } = false := by decide
theorem smoke_range_on_vector_low : AddressRange.wf { first := 0xFFFC#16, last := 0xFFFC#16 } = false := by decide
theorem smoke_range_on_vector_high : AddressRange.wf { first := 0xFFFD#16, last := 0xFFFF#16 } = false := by decide
theorem smoke_range_beside_vector : AddressRange.wf { first := 0xFFFE#16, last := 0xFFFF#16 } = true := by decide
theorem smoke_equal_flag_bits :
    Config.FlagBits.wf { c := 0, z := 0, n := 7 } = false ∧ Config.FlagBits.wf { c := 0, z := 1, n := 0 } = false ∧
      Config.FlagBits.wf { c := 0, z := 1, n := 1 } = false := by decide
theorem smoke_ill_formed_launch :
    Launch.wf { Launch.reference with devices := [.custom 0 { first := 2#16, last := 1#16 } 0] } = false ∧
      Launch.wf { Launch.reference with flagBits := { c := 1, z := 1, n := 2 } } = false := by decide
theorem smoke_memory_form :
    Memory.wf [(2, 1#8), (1, 1#8)] = false ∧ Memory.wf [(1, 0#8)] = false ∧ Memory.wf [(65536, 1#8)] = false ∧
      Memory.wf [(1, 1#8), (1, 2#8)] = false ∧ Memory.wf [(1, 1#8), (65535, 2#8)] = true := by decide

/-! ### Decoding: each row of R96, the opcode byte in binary as the table prints it -/

theorem test_decode_halt : decodeBytes [0b00000000#8] = .ok .halt := by decide
theorem test_decode_inx : decodeBytes [0b11101000#8] = .ok .inx := by decide
theorem test_decode_iny : decodeBytes [0b11001000#8] = .ok .iny := by decide
theorem test_decode_ldaImmediate : decodeBytes [0b10101001#8, 0x41#8] = .ok (.ldaImmediate 0x41#8) := by decide
theorem test_decode_ldaAbsX : decodeBytes [0b10111101#8, 0x11#8, 0x80#8] = .ok (.ldaAbsX 0x8011#16) := by decide
theorem test_decode_ldxImmediate : decodeBytes [0b10100010#8, 0x03#8] = .ok (.ldxImmediate 0x03#8) := by decide
theorem test_decode_ldyImmediate : decodeBytes [0b10100000#8, 0xFE#8] = .ok (.ldyImmediate 0xFE#8) := by decide
theorem test_decode_staAbs : decodeBytes [0b10001101#8, 0x00#8, 0xC0#8] = .ok (.staAbs 0xC000#16) := by decide
theorem test_decode_jmpAbs : decodeBytes [0b01001100#8, 0x02#8, 0x80#8] = .ok (.jmpAbs 0x8002#16) := by decide
theorem test_decode_cpx : decodeBytes [0b11100000#8, 0x05#8] = .ok (.cpx 0x05#8) := by decide
theorem test_decode_cmp : decodeBytes [0b11001001#8, 0x00#8] = .ok (.cmp 0x00#8) := by decide
theorem test_decode_bne : decodeBytes [0b11010000#8, 0xFB#8] = .ok (.bne 0xFB#8) := by decide
theorem test_decode_beq : decodeBytes [0b11110000#8, 0x07#8] = .ok (.beq 0x07#8) := by decide

/-- The decoder's boundaries (V-HALT): the neighbours of the thirteen opcode bytes are illegal. -/
theorem test_decoder_boundary :
    [0x01#8, 0x4B#8, 0x4D#8, 0x8C#8, 0x8E#8, 0x9F#8, 0xA1#8, 0xA3#8, 0xA8#8, 0xAA#8, 0xBC#8, 0xBE#8, 0xC7#8, 0xCA#8,
      0xCF#8, 0xD1#8, 0xDF#8, 0xE1#8, 0xE7#8, 0xE9#8, 0xEA#8, 0xEF#8, 0xF1#8, 0xFF#8].all
      (fun op => decide (decode op 0#8 0#8 = .error (.illegalOpcode op)) && decide (formatOf op = none)) = true := by
  decide

/-- A table word is laid out first byte lowest; bits above its width are 0. -/
theorem test_table_word :
    decodeTableWord 24 0x8011BD = some (.ldaAbsX 0x8011#16) ∧ decodeTableWord 8 0x8011BD = some (.ldaAbsX 0#16) ∧
      decodeTableWord 8 0xEA = none := by decide

/-- The forms of R102. -/
theorem test_asm :
    asmText 0x8005#16 (.bne 0xFB#8) = "BNE 0x8002" ∧ asmText 0#16 (.ldaAbsX 0x8011#16) = "LDA 0x8011,X" ∧
      asmText 0#16 (.cpx 0x05#8) = "CPX #0x05" := by decide

/-! ### One step each, from spec/95_test_vectors.md -/

/-- V-HALT 2. -/
theorem test_halt_at_top :
    view (step (loadedAt 0xFFFF#16 [0x00#8])) (fun t => (t.runState, t.pc)) = some (.halted, 0xFFFF#16) := by decide
/-- S6: nothing loaded, the first step is the HALT at 0x8000. -/
theorem test_first_step_after_reset : view (step State.reset) id = some { State.reset with runState := .halted } := by
  decide
/-- V-HALT 4. -/
theorem test_illegal_opcode :
    view (step (loadedAt 0x8002#16 [0xEA#8])) id =
      some { loadedAt 0x8002#16 [0xEA#8] with runState := .faulted (.illegalOpcode 0xEA#8 0x8002#16) } := by decide
/-- V-HALT 8. -/
theorem test_no_step_when_halted : step { State.reset with runState := .halted } = .refused .notRunning := rfl
/-- V-INC 2: the wrap sets no flag. -/
theorem test_inx_wraps :
    view (step { loadedAt 0x9000#16 [0xE8#8] with x := 0xFF#8 }) (fun t => (t.x, t.pc, flags t)) =
      some (0x00#8, 0x9001#16, false, false, false) := by decide
/-- V-INC 6: `pc` wraps. -/
theorem test_inx_at_top :
    view (step { loadedAt 0xFFFF#16 [0xE8#8] with x := 0x20#8 }) (fun t => (t.x, t.pc)) = some (0x21#8, 0x0000#16) := by
  decide
/-- V-INC 5, 7: INY touches Y alone. -/
theorem test_iny_wraps :
    view (step { loaded [0xC8#8] with x := 0x10#8, y := 0xFF#8 }) (fun t => (t.x, t.y, flags t)) =
      some (0x10#8, 0x00#8, false, false, false) := by decide
/-- V-LOAD 3: a load changes no flag. -/
theorem test_ldaImmediate_keeps_flags :
    view (step { loaded [0xA9#8, 0x80#8] with status := zcn true false false }) (fun t => (t.a, t.pc, t.status)) =
      some (0x80#8, 0x8002#16, zcn true false false) := by decide
/-- V-LOAD 6: the operand wraps to 0x0000. -/
theorem test_ldaImmediate_wraps :
    view (step (loadedAt 0xFFFF#16 [0xA9#8, 0x77#8])) (fun t => (t.a, t.pc)) = some (0x77#8, 0x0001#16) := by decide
/-- V-LOAD 8: the effective address wraps. -/
theorem test_ldaAbsX_wraps :
    view (step { loadedAt 0x0009#16 [0xBD#8, 0xF0#8, 0xFF#8, 0, 0, 0, 0, 0x5A#8] with x := 0x20#8 })
      (fun t => (t.a, t.x, t.pc)) = some (0x5A#8, 0x20#8, 0x000C#16) := by decide
/-- V-LOAD 12: the load reads the instruction's own operand byte, unsigned index. -/
theorem test_ldaAbsX_own_byte :
    view (step { loaded [0xBD#8, 0x02#8, 0x7F#8] with x := 0xFF#8 }) (fun t => t.a) = some 0x02#8 := by decide
/-- V-LOAD 14: where a device answers the read, A takes its byte and the store is not consulted. -/
theorem test_ldaAbsX_device (data : Nat) (h : Config.customRead 3 7 0x9000#16 = (data, 0x7E#8, true)) :
    view (exec (.ldaAbsX 0x9000#16) withCustom) (fun t => (t.a, t.mem.read 0x9000#16)) = some (0x7E#8, 0x00#8) := by
  have hd : withCustom.deviceAt 0x9000#16 = some (0, custom) := by decide
  have hi : indexedAddress withCustom 0x9000#16 = 0x9000#16 := by decide
  have hr : busRead withCustom 0x9000#16 = (0x7E#8, { withCustom with devices := [.custom 3 custom.range data] }) := by
    unfold busRead
    rw [hd]
    simp only [Device.read, custom, h, if_true]
    rfl
  simp only [exec, execLdaAbsX, hi, hr, view]
  rfl
/-- A HALT byte that a device answers stops the machine there, whichever of its two states the device is left in
(spec/41_halt.md R140; log 12). -/
theorem test_halt_from_device (data : Nat) (h : Config.customRead 3 7 0x9000#16 = (data, 0x00#8, true)) :
    ∃ d, (d = 7 ∨ d = data) ∧ step { withCustom with pc := 0x9000#16 } =
      .next { withCustom with pc := 0x9000#16, runState := .halted, devices := [.custom 3 custom.range d] } := by
  have hd : State.deviceAt { withCustom with pc := 0x9000#16 } 0x9000#16 = some (0, custom) := by decide
  have hf : fetch { withCustom with pc := 0x9000#16 } =
      (.ok .halt, { withCustom with pc := 0x9000#16, devices := [.custom 3 custom.range data] }) := by
    simp only [fetch, busRead, hd, Device.read, custom, h, if_true]
    rfl
  rw [step, cycle, show ({ withCustom with pc := 0x9000#16 } : State).runState = .running from rfl]
  simp only [runCycle, hf, executedOn]
  split_ifs
  · exact ⟨data, .inr rfl, rfl⟩
  · exact ⟨7, .inl rfl, rfl⟩
/-- V-LOAD 4. -/
theorem test_ldxImmediate :
    view (step (loaded [0xA2#8, 0x03#8])) (fun t => (t.a, t.x, t.y, t.pc)) = some (0#8, 0x03#8, 0#8, 0x8002#16) := by
  decide
/-- V-LOAD 5. -/
theorem test_ldyImmediate :
    view (step (loaded [0xA0#8, 0xFE#8])) (fun t => (t.a, t.x, t.y, t.pc)) = some (0#8, 0#8, 0xFE#8, 0x8002#16) := by
  decide
/-- V-STORE 1: the sink emits the byte and the cell takes it. -/
theorem test_staAbs_sink :
    view (step { loadedAt 0x8002#16 [0x8D#8, 0x00#8, 0xC0#8] with a := 0x41#8 })
      (fun t => (t.mem.read 0xC000#16, t.devices, t.pc, t.a)) =
      some (0x41#8, [.charOut [0x41#8] 1], 0x8005#16, 0x41#8) := by decide
/-- V-STORE 6: a failed device write stops the machine with the cell unwritten. -/
theorem test_staAbs_fails :
    view (step failing) id = some { failing with runState := .faulted (.deviceIOFailure 0xC000#16 0x49#8) } := by decide
/-- V-JMP 4: the high byte of the operand wraps to 0x0000. -/
theorem test_jmpAbs_wraps :
    view (step (loadedAt 0xFFFE#16 [0x4C#8, 0x34#8, 0x12#8])) (fun t => t.pc) = some 0x1234#16 := by decide
/-- V-CMP 9: unsigned, Negative kept. -/
theorem test_cpx_less :
    view (step { loaded [0xE0#8, 0x80#8] with x := 0x7F#8, status := zcn false true true })
      (fun t => (flags t, t.x, t.pc)) = some ((false, false, true), 0x7F#8, 0x8002#16) := by decide
/-- V-CMP 10: equal, Negative cleared, the dormant bits kept. -/
theorem test_cpx_equal :
    view (step { loaded [0xE0#8, 0xFF#8] with x := 0xFF#8, status := zcn false false true }) (fun t => t.status) =
      some (zcn true true false) := by decide
/-- V-CMP 7: greater, Negative not set though bit 7 of the difference is. -/
theorem test_cmp_greater :
    view (step { loaded [0xC9#8, 0x00#8] with a := 0xFF#8, status := zcn true false false })
      (fun t => (flags t, t.pc)) = some ((false, true, false), 0x8002#16) := by decide
/-- V-CMP 3. -/
theorem test_cmp_equal :
    view (step { loaded [0xC9#8, 0x05#8] with a := 0x05#8, status := zcn false false true }) flags =
      some (true, true, false) := by decide
/-- V-BR 1, 2. -/
theorem test_bne :
    view (step (loadedAt 0x8005#16 [0xD0#8, 0xFB#8])) (fun t => t.pc) = some 0x8002#16 ∧
      view (step { loadedAt 0x8005#16 [0xD0#8, 0xFB#8] with status := zcn true false false }) (fun t => t.pc) =
        some 0x8007#16 := by decide
/-- V-BR 11, 12: the target wraps downward, the operand is read from 0x0000. -/
theorem test_bne_wraps :
    view (step (loadedAt 0x0005#16 [0xD0#8, 0xF0#8])) (fun t => t.pc) = some 0xFFF7#16 ∧
      view (step (loadedAt 0xFFFF#16 [0xD0#8, 0x05#8])) (fun t => t.pc) = some 0x0006#16 := by decide
/-- V-BR 3, 4. -/
theorem test_beq :
    view (step { loadedAt 0x8007#16 [0xF0#8, 0x07#8] with status := zcn true false false }) (fun t => t.pc) =
        some 0x8010#16 ∧
      view (step (loadedAt 0x8007#16 [0xF0#8, 0x07#8])) (fun t => t.pc) = some 0x8009#16 := by decide
/-- V-BR 8, 9: the far ends of the reach. -/
theorem test_beq_reach :
    view (step { loaded [0xF0#8, 0x80#8] with status := zcn true false false }) (fun t => t.pc) = some 0x7F82#16 ∧
      view (step { loadedAt 0xFFF5#16 [0xF0#8, 0x10#8] with status := zcn true false false }) (fun t => t.pc) =
        some 0x0007#16 := by decide

/-- The cause codes of R200. -/
theorem test_stop_codes :
    [StopCause.halt, .fault (.illegalOpcode 0xEA#8 0x8000#16), .fault (.deviceIOFailure 0xC000#16 0x49#8)].map
      StopCause.code = [1, 2, 3] := by decide

/-! ### The host's operations (V-BUS) -/

/-- V-BUS 2. -/
theorem test_construct :
    view (construct { Launch.reference with resetVector := 0x1234#16, devices := [], initA := 9#8, initP := 0x83#8 })
      (fun t => (t.pc, t.a, t.status.toByte { c := 0, z := 1, n := 7 }, t.mem)) =
      some (0x1234#16, 9#8, 0x83#8, [(0xFFFC, 0x34#8), (0xFFFD, 0x12#8)]) := by decide
/-- V-BUS 3, 4. -/
theorem test_loadRom_bound :
    view (loadRom 0xFFFE#16 [1#8, 2#8] State.reset) (fun t => (t.mem.read 0xFFFE#16, t.mem.read 0xFFFF#16)) =
        some (1#8, 2#8) ∧
      loadRom 0xFFFE#16 [1#8, 2#8, 3#8] State.reset = .refused .loadPastEnd := ⟨by decide, rfl⟩
/-- V-BUS 6, 7. -/
theorem test_loadRom_under_device :
    view (loadRom 0xC000#16 [0x58#8] State.reset) (fun t => (t.devices, (busRead t 0xC000#16).1)) =
      some ([.charOut [] 0], 0x58#8) := by decide
/-- V-BUS 8: the later device wins where ranges overlap. -/
theorem test_devmap_overlap :
    let s := { State.reset with
      devices := [.custom 1 { first := 0x9000#16, last := 0x90FF#16 } 0,
        .custom 2 { first := 0x9080#16, last := 0x917F#16 } 0] }
    [0x8FFF#16, 0x9000#16, 0x907F#16, 0x9080#16, 0x90FF#16, 0x917F#16, 0x9180#16].map
      (fun a => (s.deviceAt a).map Prod.fst) = [none, some 0, some 0, some 1, some 1, some 1, none] := by decide
/-- V-BUS 11. -/
theorem test_reset_later :
    let s := { State.reset with a := 7#8, runState := .halted, mem := [(0xFFFC, 0x12#8), (0xFFFD, 0x90#8)] }
    resetMachine s = { s with pc := 0x9012#16, runState := .running } := by decide
/-- The status byte at the reference positions and at others. -/
theorem test_status_byte :
    (Status.ofByte { c := 0, z := 1, n := 7 } 0xA5#8).toByte { c := 0, z := 1, n := 7 } = 0xA5#8 ∧
      (zcn true false true).toByte { c := 0, z := 1, n := 7 } = 0xDA#8 ∧
      (zcn true false true).toByte { c := 5, z := 0, n := 2 } = 0x9D#8 := by decide
/-- R73 for a store. -/
theorem test_accesses_of_store :
    stepAccesses { loaded [0x8D#8, 0x00#8, 0xC0#8] with a := 0x41#8 } =
      [.read 0x8000#16, .read 0x8001#16, .read 0x8002#16, .write 0xC000#16 0x41#8] := by decide
/-- A placed word is what the next step runs. -/
theorem test_withFetchWord :
    view (step (State.reset.withFetchWord 16 0x41A9)) (fun t => (t.a, t.pc)) = some (0x41#8, 0x8002#16) := by decide

/-! ### Witnesses: for each obligation with hypotheses, a state and operands that meet them -/

theorem witness_EncodeOfDecode : decode 0xBD#8 0x34#8 0x12#8 = .ok (.ldaAbsX 0x1234#16) := by decide
theorem witness_DecoderRejectsIllegalOpcodesByName :
    0xC9#8 ∈ [0x00#8, 0x4C#8, 0x8D#8, 0xA0#8, 0xA2#8, 0xA9#8, 0xBD#8, 0xC8#8, 0xC9#8, 0xD0#8, 0xE0#8, 0xE8#8, 0xF0#8] ∧
      0xEA#8 ∉ [0x00#8, 0x4C#8, 0x8D#8, 0xA0#8, 0xA2#8, 0xA9#8, 0xBD#8, 0xC8#8, 0xC9#8, 0xD0#8, 0xE0#8, 0xE8#8,
        0xF0#8] := by decide

/-- The reads of a fetch on a concrete machine: each formats' hypotheses, and those of the step clauses of the rules. -/
theorem witness_FetchReadsOperandsInOrder :
    (formatOf 0xEA#8 = none ∧ busRead (loaded [0xEA#8]) 0x8000#16 = (0xEA#8, loaded [0xEA#8])) ∧
      (formatOf 0xE8#8 = some .imp ∧ busRead (loaded [0xE8#8]) 0x8000#16 = (0xE8#8, loaded [0xE8#8])) ∧
      (formatOf 0xA9#8 = some .imm ∧ formatOf 0xD0#8 = some .rel ∧
        busRead (loaded [0xA9#8, 0x41#8]) 0x8001#16 = (0x41#8, loaded [0xA9#8, 0x41#8])) ∧
      (formatOf 0x8D#8 = some .abs ∧ formatOf 0xBD#8 = some .absx ∧
        busRead (loaded [0x8D#8, 0x34#8, 0x12#8]) 0x8002#16 = (0x12#8, loaded [0x8D#8, 0x34#8, 0x12#8])) := by decide
theorem witness_StepRunsDecodedInstruction :
    (loaded [0xE8#8]).runState = .running ∧ fetch (loaded [0xE8#8]) = (.ok .inx, loaded [0xE8#8]) ∧
      (loaded [0xE8#8]).deviceAt 0x8000#16 = none ∧ (loaded [0xE8#8]).deviceAt 0x8001#16 = none ∧
      (loaded [0xE8#8]).deviceAt 0x8002#16 = none ∧
      decode ((loaded [0xE8#8]).mem.read 0x8000#16) ((loaded [0xE8#8]).mem.read 0x8001#16)
        ((loaded [0xE8#8]).mem.read 0x8002#16) = .ok .inx := by decide
theorem witness_PlacedWordRunsNext :
    State.reset.runState = .running ∧ State.reset.mem.wf = true ∧ State.reset.deviceAt 0x8000#16 = none ∧
      State.reset.deviceAt 0x8001#16 = none ∧ State.reset.deviceAt 0x8002#16 = none ∧
      decodeTableWord 8 0xE8 = some .inx := by decide
theorem witness_StoppedMachineHasNoStep :
    RunState.halted ≠ .running ∧ RunState.faulted (.illegalOpcode 0xEA#8 0x8000#16) ≠ .running ∧
      State.reset.runState = .running := by decide
theorem witness_StepOutcomesBelongToOpcodes :
    (∀ op ∈ [0x00#8, 0xE8#8, 0xEA#8], (loaded [op]).runState = .running ∧
      busRead (loaded [op]) (loaded [op]).pc = (op, loaded [op])) ∧
      failing.runState = .running ∧ busRead failing failing.pc = (0x8D#8, failing) := by decide
theorem witness_StopsArePrecise :
    step failing = .next { failing with runState := .faulted (.deviceIOFailure 0xC000#16 0x49#8) } ∧
      RunState.faulted (.deviceIOFailure 0xC000#16 0x49#8) ≠ .running := ⟨rfl, by decide⟩
theorem witness_AccessesAccountForStep : ∃ t, step (loaded [0x8D#8, 0x00#8, 0xC0#8]) = .next t := ⟨_, rfl⟩
/-- The step clauses of HaltRule, HaltStepAfterAnyFetch, InxRule, InyRule and IllegalOpcodeRule. -/
theorem witness_one_byte_rules :
    ∀ op ∈ [0x00#8, 0xE8#8, 0xC8#8, 0xEA#8], (loaded [op]).runState = .running ∧
      busRead (loaded [op]) (loaded [op]).pc = (op, loaded [op]) := by decide
theorem witness_IllegalOpcodeRule :
    0xEA#8 ∉ [0x00#8, 0x4C#8, 0x8D#8, 0xA0#8, 0xA2#8, 0xA9#8, 0xBD#8, 0xC8#8, 0xC9#8, 0xD0#8, 0xE0#8, 0xE8#8, 0xF0#8] ∧
      (loaded [0xEA#8]).runState = .running ∧
      busRead (loaded [0xEA#8]) (loaded [0xEA#8]).pc = (0xEA#8, loaded [0xEA#8]) := by decide
/-- The step clauses of LdaImmediateRule, LdxImmediateRule, LdyImmediateRule, CpxRule, CmpRule, BneRule and BeqRule. -/
theorem witness_two_byte_rules :
    ∀ op ∈ [0xA9#8, 0xA2#8, 0xA0#8, 0xE0#8, 0xC9#8, 0xD0#8, 0xF0#8],
      (loaded [op, 0x41#8]).runState = .running ∧
        busRead (loaded [op, 0x41#8]) (loaded [op, 0x41#8]).pc = (op, loaded [op, 0x41#8]) ∧
        busRead (loaded [op, 0x41#8]) ((loaded [op, 0x41#8]).pc + 1#16) = (0x41#8, loaded [op, 0x41#8]) := by decide
/-- The step clauses of LdaAbsXRule, StaAbsRule and JmpAbsRule. -/
theorem witness_three_byte_rules :
    ∀ op ∈ [0xBD#8, 0x8D#8, 0x4C#8],
      (loaded [op, 0x34#8, 0x12#8]).runState = .running ∧
        busRead (loaded [op, 0x34#8, 0x12#8]) (loaded [op, 0x34#8, 0x12#8]).pc =
          (op, loaded [op, 0x34#8, 0x12#8]) ∧
        busRead (loaded [op, 0x34#8, 0x12#8]) ((loaded [op, 0x34#8, 0x12#8]).pc + 1#16) =
          (0x34#8, loaded [op, 0x34#8, 0x12#8]) ∧
        busRead (loaded [op, 0x34#8, 0x12#8]) ((loaded [op, 0x34#8, 0x12#8]).pc + 2#16) =
          (0x12#8, loaded [op, 0x34#8, 0x12#8]) ∧
        busRead (loaded [op, 0x34#8, 0x12#8]) 0x1234#16 = (0x00#8, loaded [op, 0x34#8, 0x12#8]) := by decide
theorem witness_StaAbsRule :
    failing.deviceAt 0x0200#16 = none ∧
      (failing.deviceAt 0xC000#16 = some (0, .charOut [0x48#8] 1) ∧ 1 ∈ failing.sinkFails) ∧
      (State.reset.deviceAt 0xC000#16 = some (0, .charOut [] 0) ∧ 0 ∉ State.reset.sinkFails) ∧
      withCustom.deviceAt 0x9000#16 = some (0, custom) := by decide
theorem witness_StoreFrame :
    State.reset.mem.wf = true ∧ (∃ t, exec (.staAbs 0x0200#16) State.reset = .next t ∧ t.runState = .running) ∧
      failing.mem.wf = true ∧ (∃ t, exec (.staAbs 0xC000#16) failing = .next t ∧ t.runState ≠ .running) :=
  ⟨by decide, ⟨_, rfl, by decide⟩, by decide, ⟨_, rfl, by decide⟩⟩
theorem witness_CompareThreeCases :
    (0x7F#8).toNat < (0x80#8).toNat ∧ (0x00#8).toNat < (0xFF#8).toNat ∧ (0x80#8).toNat = (0x80#8).toNat := by decide
theorem witness_AssembledBranchReachesLabel :
    branchDisplacement 0x8000#16 0x7F82#16 = some 0x80#8 ∧ branchDisplacement 0x8000#16 0x8081#16 = some 0x7F#8 ∧
      branchDisplacement 0x8000#16 0x8082#16 = none ∧ branchDisplacement 0xFFF5#16 0x0007#16 = some 0x10#8 := by decide
/-- One changed register and one changed status, so that the implications of RegisterWriters are met. -/
theorem witness_RegisterWriters :
    (∃ t, step (loaded [0xA9#8, 0x41#8]) = .next t ∧ t.a ≠ (loaded [0xA9#8, 0x41#8]).a) ∧
      (∃ t, step (loaded [0xE8#8]) = .next t ∧ t.x ≠ (loaded [0xE8#8]).x) ∧
      (∃ t, step (loaded [0xC8#8]) = .next t ∧ t.y ≠ (loaded [0xC8#8]).y) ∧
      (∃ t, step (loaded [0xC9#8, 0x00#8]) = .next t ∧ t.status ≠ (loaded [0xC9#8, 0x00#8]).status) :=
  ⟨⟨_, rfl, by decide⟩, ⟨_, rfl, by decide⟩, ⟨_, rfl, by decide⟩, ⟨_, rfl, by decide⟩⟩
theorem witness_DormantStateIsConstant :
    State.reset.status.negative = false ∧ (∃ t, hostCall .step State.reset = .next t) ∧
      (∃ t, hostCall .reset State.reset = .next t) ∧ (∃ t, hostCall (.loadRom 0xFFFF#16 [1#8]) State.reset = .next t) :=
  ⟨by decide, ⟨_, rfl⟩, ⟨_, rfl⟩, ⟨_, rfl⟩⟩
theorem witness_OnlyStoreWritesMemory :
    (loaded [0x8D#8, 0x00#8, 0x02#8]).mem.wf = true ∧
      ∃ t, step { loaded [0x8D#8, 0x00#8, 0x02#8] with a := 1#8 } = .next t ∧
        t.mem.read 0x0200#16 ≠ (loaded [0x8D#8, 0x00#8, 0x02#8]).mem.read 0x0200#16 :=
  ⟨by decide, _, rfl, by decide⟩
theorem witness_SinkOutputOnlyGrows :
    (loaded [0x8D#8, 0x00#8, 0xC0#8]).devices[0]? = some (.charOut [] 0) ∧
      ∃ t, step (loaded [0x8D#8, 0x00#8, 0xC0#8]) = .next t ∧ t.devices[0]? = some (.charOut [0#8] 1) :=
  ⟨rfl, _, rfl, rfl⟩
theorem witness_DeviceTableIsConstant : ∃ t, step failing = .next t := ⟨_, rfl⟩
theorem witness_UnobservableStateHasNoInfluence :
    ∃ t, Steps (loaded [0xC8#8]) t ∧ t.y = 1#8 ∧ t.runState = .halted :=
  ⟨_, .head rfl (.head rfl (.refl _)), rfl, rfl⟩
theorem witness_StoreIsSeenByNextFetch :
    (loaded [0x8D#8, 0x03#8, 0x80#8]).mem.wf = true ∧
      fetch (loaded [0x8D#8, 0x03#8, 0x80#8]) = (.ok (.staAbs 0x8003#16), loaded [0x8D#8, 0x03#8, 0x80#8]) ∧
      (loaded [0x8D#8, 0x03#8, 0x80#8]).deviceAt 0x8003#16 = none ∧
      ∃ t, step (loaded [0x8D#8, 0x03#8, 0x80#8]) = .next t := ⟨by decide, by decide, by decide, _, rfl⟩
theorem witness_EqualReadsEqualMemory :
    Memory.wf (Memory.write [(1, 5#8)] 1#16 0#8) = true ∧ Memory.wf [] = true ∧
      Memory.write [(1, 5#8)] 1#16 0#8 = [] := by decide
theorem witness_LoadRomRule :
    State.reset.mem.wf = true ∧ (0xFFFE#16).toNat + [1#8, 2#8].length ≤ 65536 ∧
      65536 < (0xFFFE#16).toNat + [1#8, 2#8, 3#8].length := by decide
theorem witness_BusReadRule :
    State.reset.deviceAt 0x8000#16 = none ∧ State.reset.deviceAt 0xC000#16 = some (0, .charOut [] 0) ∧
      withCustom.deviceAt 0x9000#16 = some (0, custom) := by decide
theorem witness_BusWriteRule :
    State.reset.deviceAt 0x8000#16 = none ∧ State.reset.deviceAt 0xC000#16 = some (0, .charOut [] 0) ∧
      (Device.charOut [] 0).write [] 0xC000#16 5#8 = .done (.charOut [5#8] 1) true ∧
      failing.deviceAt 0xC000#16 = some (0, .charOut [0x48#8] 1) ∧
      (Device.charOut [0x48#8] 1).write failing.sinkFails 0xC000#16 5#8 = .ioFailure (.charOut [0x48#8] 1) ∧
      busWrite failing 0xC000#16 failing.a = .failed failing := ⟨by decide, by decide, by decide, by decide, by decide, rfl⟩
theorem witness_CharOutRule :
    State.reset.deviceAt 0xC000#16 = some (0, .charOut [] 0) ∧ 0 ∉ State.reset.sinkFails := by decide
/-- SetFlagWritesOneBit and StatusByteRoundTrip. -/
theorem witness_status_byte : Config.FlagBits.wf { c := 0, z := 1, n := 7 } = true := by decide
theorem witness_ConstructedState :
    Launch.wf Launch.reference = true ∧
      [DeviceSpec.charOut, .custom 0 { first := 2#16, last := 1#16 } 0].all (fun d => d.range.wf) = false := by decide
theorem witness_BootedState :
    let l := { Launch.reference with rom := [0xA9#8, 0x41#8] }
    l.wf = true ∧ l.romBase.toNat + l.rom.length ≤ 65536 := by decide
theorem witness_IllFormedDevicesAreRefused :
    Launch.reference.flagBits.wf = true ∧
    (let r1 : AddressRange := { first := 0x9001#16, last := 0x9000#16 }
    let r2 : AddressRange := { first := 0xFFF0#16, last := 0xFFFC#16 }
    let r3 : AddressRange := { first := 0xFFFD#16, last := 0xFFFF#16 }
    r1.last.toNat < r1.first.toNat ∧ (r2.first.toNat ≤ 0xFFFC ∧ 0xFFFC ≤ r2.last.toNat) ∧
      (r3.first.toNat ≤ 0xFFFD ∧ 0xFFFD ≤ r3.last.toNat) ∧
      construct { Launch.reference with devices := [.charOut, .custom 0 r3 0] } = .refused .illFormedConfiguration) :=
  ⟨by decide, by decide, by decide, by decide, rfl⟩
/-- The image's first byte, INX, is what the step after boot runs, where 0x0000 holds HALT; an illegal first byte. -/
theorem witness_FirstFetchIsAtResetVector :
    Launch.reference.wf = true ∧ construct Launch.reference = .next State.reset ∧
      boot { Launch.reference with rom := [0xE8#8] } = .next (loaded [0xE8#8]) ∧
      fetch (loaded [0xE8#8]) = (.ok .inx, loaded [0xE8#8]) ∧ (loaded [0xE8#8]).mem.read 0x0000#16 = 0x00#8 ∧
      boot { Launch.reference with rom := [0xEA#8] } = .next (loaded [0xEA#8]) ∧
      fetch (loaded [0xEA#8]) = (.error (.illegalOpcode 0xEA#8), loaded [0xEA#8]) :=
  ⟨by decide, rfl, rfl, by decide, by decide, rfl, by decide⟩
theorem witness_HostStepReports :
    (∃ t, step (loaded [0xE8#8]) = .next t ∧ t.runState = .running) ∧
      (∃ t, step State.reset = .next t ∧ t.runState = .halted) ∧
      (∃ t, step failing = .next t ∧ t.runState = .faulted (.deviceIOFailure 0xC000#16 0x49#8)) ∧
      RunState.halted ≠ .running := ⟨⟨_, rfl, rfl⟩, ⟨_, rfl, rfl⟩, ⟨_, rfl, rfl⟩, by decide⟩
theorem witness_RunEndsInOneState : (∃ t, HaltsIn State.reset t) ∧ ∃ t, FaultsIn failing t :=
  ⟨⟨_, .head rfl (.refl _), rfl⟩, ⟨_, .head rfl (.refl _), _, rfl⟩⟩
theorem witness_StepKeepsInv : failing.Inv ∧ ∃ t, step failing = .next t := ⟨⟨by decide, by decide⟩, _, rfl⟩
theorem witness_HostKeepsInv :
    construct Launch.reference = .next State.reset ∧ State.reset.Inv ∧
      ∃ t, hostCall (.loadRom 0x8000#16 [0xE8#8]) State.reset = .next t := ⟨rfl, ⟨by decide, by decide⟩, _, rfl⟩

end Sys2Proof.Tests
end

section
/-! PROOFS. The status register as a byte: what each bit of it holds, and what writing a flag does to it
(spec/00_scope.md R10, spec/10_state.md R27). -/

namespace Sys2Proof

/-- R7: well-formed flag positions are pairwise distinct. -/
theorem Config.FlagBits.wf_iff (fb : Config.FlagBits) :
    fb.wf = true ↔ fb.c ≠ fb.z ∧ fb.c ≠ fb.n ∧ fb.z ≠ fb.n := by
  simp [Config.FlagBits.wf, and_assoc]

end Sys2Proof

namespace Sys2Proof.Machine

@[simp] theorem Status.toByte_getLsbD (p : Status) (fb : Config.FlagBits) (i : Fin 8) :
    (p.toByte fb).getLsbD i = p.bitAt fb i := by
  simp [Status.toByte]

@[simp] theorem Status.flag_setFlag_self (p : Status) (f : Flag) (b : Bool) : (p.setFlag f b).flag f = b := by
  cases f <;> rfl

/-- The bit at a flag's position is that flag; without distinct positions a flag earlier in `bitAt` could hide it. -/
theorem Status.bitAt_flagPosition (p : Status) {fb : Config.FlagBits} (hwf : fb.wf = true) (f : Flag) :
    p.bitAt fb (flagPosition fb f) = p.flag f := by
  obtain ⟨hcz, hcn, hzn⟩ := (Config.FlagBits.wf_iff fb).mp hwf
  cases f with
  | c => simp [Status.bitAt, flagPosition]
  | z => simp [Status.bitAt, flagPosition, hcz.symm]
  | n => simp [Status.bitAt, flagPosition, hcn.symm, hzn.symm]

/-- The frame of a flag write: a bit elsewhere, of another flag or dormant, stays; this needs no distinct positions. -/
theorem Status.bitAt_setFlag_of_ne (p : Status) {fb : Config.FlagBits} {f : Flag} (b : Bool) {i : Fin 8}
    (hne : i ≠ flagPosition fb f) : (p.setFlag f b).bitAt fb i = p.bitAt fb i := by
  cases f with
  | c => simp [Status.bitAt, show i ≠ fb.c from hne]
  | z => simp [Status.bitAt, show i ≠ fb.z from hne]
  | n => simp [Status.bitAt, show i ≠ fb.n from hne]

/-- Settles O43: the bit at the flag's own position is the flag written, every other bit is framed. -/
theorem setFlagWritesOneBit : Obligations.SetFlagWritesOneBit := by
  intro fb p f b i hwf
  simp only [Status.toByte_getLsbD]
  split
  case isTrue hi => rw [hi, Status.bitAt_flagPosition _ hwf, Status.flag_setFlag_self]
  case isFalse hne => exact Status.bitAt_setFlag_of_ne p b hne

end Sys2Proof.Machine
end

section
/-! PROOFS. What an instruction does, said once: its meaning as register updates, all a store can do, and all that a
step can write (spec/10_state.md R23), from which the invariants over a step follow. -/

namespace Sys2Proof.Machine

/-! ### The meaning of each instruction as updates of the state -/

theorem exec_halt (s : State) : exec .halt s = .next (s.raise .halt) := rfl
theorem exec_inx (s : State) : exec .inx s = .next ((s.setReg .x (s.x + 1#8)).advance 1#16) := rfl
theorem exec_iny (s : State) : exec .iny s = .next ((s.setReg .y (s.y + 1#8)).advance 1#16) := rfl
theorem exec_ldaImmediate (v : Byte) (s : State) :
    exec (.ldaImmediate v) s = .next ((s.setReg .a v).advance 2#16) := rfl
theorem exec_ldxImmediate (v : Byte) (s : State) :
    exec (.ldxImmediate v) s = .next ((s.setReg .x v).advance 2#16) := rfl
theorem exec_ldyImmediate (v : Byte) (s : State) :
    exec (.ldyImmediate v) s = .next ((s.setReg .y v).advance 2#16) := rfl
theorem exec_ldaAbsX (b : Address) (s : State) :
    exec (.ldaAbsX b) s =
      .next (((busRead s (indexedAddress s b)).2.setReg .a (busRead s (indexedAddress s b)).1).advance 3#16) := rfl
theorem exec_jmpAbs (b : Address) (s : State) : exec (.jmpAbs b) s = .next (s.setPc b) := rfl
theorem exec_cpx (v : Byte) (s : State) : exec (.cpx v) s = .next ((s.compareReg .x v).advance 2#16) := rfl
theorem exec_cmp (v : Byte) (s : State) : exec (.cmp v) s = .next ((s.compareReg .a v).advance 2#16) := rfl
theorem exec_bne (d : Byte) (s : State) :
    exec (.bne d) s = .next (s.setPc (if !s.status.zero then branchTarget s.pc d else s.pc + 2#16)) := rfl
theorem exec_beq (d : Byte) (s : State) :
    exec (.beq d) s = .next (s.setPc (if s.status.zero then branchTarget s.pc d else s.pc + 2#16)) := rfl

theorem exec_staAbs_of_stored {b : Address} {s s' : State} (h : busWrite s b s.a = .stored s') :
    exec (.staAbs b) s = .next (s'.advance 3#16) := by
  simp [exec, execStaAbs, absoluteAddress, h]

theorem exec_staAbs_of_failed {b : Address} {s s' : State} (h : busWrite s b s.a = .failed s') :
    exec (.staAbs b) s = .next (s'.raise (.fault (.deviceIOFailure b s.a))) := by
  simp [exec, execStaAbs, absoluteAddress, h]

/-! ### What reads and a write do to the list of devices -/

/-- The devices after one bus read that a device answered. -/
def DeviceRead (ds es : List Device) : Prop := ∃ k d a, ds[k]? = some d ∧ es = ds.set k (d.read a).device

/-- The devices after any number of bus reads. -/
abbrev ReadsTo : List Device → List Device → Prop := Relation.ReflTransGen DeviceRead

/-- The devices after the write hook of the device that claims `b`, if one does. -/
def WrittenTo (fails : List Nat) (b : Address) (v : Byte) (ds es : List Device) : Prop :=
  es = ds ∨ ∃ k d, ds[k]? = some d ∧ es = ds.set k (d.write fails b v).device

theorem busRead_readsTo (s : State) (a : Address) : ReadsTo s.devices (busRead s a).2.devices := by
  rcases busRead_cases s a with ⟨_, h⟩ | ⟨k, d, hd, h⟩ <;> rw [h]
  exact .single ⟨k, d, a, (State.deviceAt_some hd).1, rfl⟩

theorem fetch_readsTo (s : State) : ReadsTo s.devices (fetch s).2.devices := by
  rcases fetch_cases s with h | ⟨r1, rfl, h⟩ | ⟨r1, r2, rfl, rfl, h⟩ <;> rw [h]
  · exact busRead_readsTo _ _
  · exact (busRead_readsTo _ _).trans (busRead_readsTo _ _)
  · exact ((busRead_readsTo _ _).trans (busRead_readsTo _ _)).trans (busRead_readsTo _ _)

/-- All a store can do: the write hook of the device at `b` runs, if there is one, and then either the byte is in the
store and `pc` is past the instruction, or the machine is FAULTED. -/
theorem exec_staAbs_cases {b : Address} {s t : State} (h : exec (.staAbs b) s = .next t) :
    ∃ ds, WrittenTo s.sinkFails b s.a s.devices ds ∧
      (t = ({ s with devices := ds }.store b s.a).advance 3#16 ∨
        t = { s with devices := ds }.raise (.fault (.deviceIOFailure b s.a))) := by
  rcases busWrite_cases s b s.a with ⟨_, hb⟩ | ⟨k, d, hd, ⟨d', handled, hw, hb⟩ | ⟨d', hw, hb⟩⟩
  · rw [exec_staAbs_of_stored hb] at h
    exact ⟨s.devices, .inl rfl, .inl (Host.Outcome.next.inj h).symm⟩
  · rw [exec_staAbs_of_stored hb] at h
    exact ⟨_, .inr ⟨k, d, (State.deviceAt_some hd).1, by rw [hw]; rfl⟩, .inl (Host.Outcome.next.inj h).symm⟩
  · rw [exec_staAbs_of_failed hb] at h
    exact ⟨_, .inr ⟨k, d, (State.deviceAt_some hd).1, by rw [hw]; rfl⟩, .inr (Host.Outcome.next.inj h).symm⟩

/-! ### All that an instruction, and so a step, can write -/

/-- What a machine that fetched `r` in the state `s` may have changed in the state `t`: R23's table of writers, the
bytes of the store and the devices included. -/
structure WritesOnly (r : Except DecodeError Instr) (s t : State) : Prop where
  a : t.a = s.a ∨ (∃ v, r = .ok (.ldaImmediate v)) ∨ ∃ b, r = .ok (.ldaAbsX b)
  x : t.x = s.x ∨ r = .ok .inx ∨ ∃ v, r = .ok (.ldxImmediate v)
  y : t.y = s.y ∨ r = .ok .iny ∨ ∃ v, r = .ok (.ldyImmediate v)
  sp : t.sp = s.sp
  status : t.status = s.status ∨ ∃ u v, (r = .ok (.cpx v) ∨ r = .ok (.cmp v)) ∧ t.status = s.status.compare u v
  sinkFails : t.sinkFails = s.sinkFails
  mem : t.mem = s.mem ∨ ∃ b, r = .ok (.staAbs b) ∧ t.mem = s.mem.write b s.a ∧ t.runState = s.runState
  devices : ∃ ds, ReadsTo s.devices ds ∧
    (t.devices = ds ∨ ∃ b, r = .ok (.staAbs b) ∧ WrittenTo s.sinkFails b s.a ds t.devices)

/-- What may change after a fetch may change from the state before it: the fetch changes devices alone, by reads. -/
theorem WritesOnly.after_fetch {r q : Except DecodeError Instr} {s s' t : State} (hf : fetch s = (q, s'))
    (h : WritesOnly r s' t) : WritesOnly r s t := by
  have reads : ReadsTo s.devices s'.devices := by simpa [hf] using fetch_readsTo s
  have fetched : s' = { s with devices := s'.devices } := by simpa [hf] using fetch_state s
  rw [fetched] at h
  obtain ⟨ds, more, hds⟩ := h.devices
  exact { h with devices := ⟨ds, reads.trans more, hds⟩ }

theorem WritesOnly.of_stop (r : Except DecodeError Instr) (s : State) (c : StopCause) :
    WritesOnly r s (s.raise c) where
  a := .inl rfl
  x := .inl rfl
  y := .inl rfl
  sp := rfl
  status := .inl rfl
  sinkFails := rfl
  mem := .inl rfl
  devices := ⟨_, .refl, .inl rfl⟩

theorem exec_writesOnly {i : Instr} {s t : State} (h : exec i s = .next t) : WritesOnly (.ok i) s t := by
  have same : ReadsTo s.devices s.devices := .refl
  cases i with
  | staAbs b =>
    obtain ⟨ds, hw, rfl | rfl⟩ := exec_staAbs_cases h
    · exact { a := .inl rfl, x := .inl rfl, y := .inl rfl, sp := rfl, status := .inl rfl, sinkFails := rfl
              mem := .inr ⟨b, rfl, rfl, rfl⟩, devices := ⟨_, same, .inr ⟨b, rfl, hw⟩⟩ }
    · exact { a := .inl rfl, x := .inl rfl, y := .inl rfl, sp := rfl, status := .inl rfl, sinkFails := rfl
              mem := .inl rfl, devices := ⟨_, same, .inr ⟨b, rfl, hw⟩⟩ }
  | ldaAbsX b =>
    rw [exec_ldaAbsX] at h
    cases h
    exact { a := .inr (.inr ⟨b, rfl⟩), x := .inl (by simp), y := .inl (by simp), sp := by simp
            status := .inl (by simp), sinkFails := by simp, mem := .inl (by simp)
            devices := ⟨_, busRead_readsTo _ _, .inl rfl⟩ }
  | halt => rw [exec_halt] at h; cases h; exact .of_stop _ _ _
  | inx => rw [exec_inx] at h; cases h; constructor <;> simp [same]
  | iny => rw [exec_iny] at h; cases h; constructor <;> simp [same]
  | ldaImmediate v => rw [exec_ldaImmediate] at h; cases h; constructor <;> simp [same]
  | ldxImmediate v => rw [exec_ldxImmediate] at h; cases h; constructor <;> simp [same]
  | ldyImmediate v => rw [exec_ldyImmediate] at h; cases h; constructor <;> simp [same]
  | jmpAbs b => rw [exec_jmpAbs] at h; cases h; constructor <;> simp [same]
  | cpx v =>
    have compared : ∃ u, s.status.compare s.x v = s.status.compare u v := ⟨_, rfl⟩
    rw [exec_cpx] at h; cases h; constructor <;> simp [same, compared]
  | cmp v =>
    have compared : ∃ u, s.status.compare s.a v = s.status.compare u v := ⟨_, rfl⟩
    rw [exec_cmp] at h; cases h; constructor <;> simp [same, compared]
  | bne d => rw [exec_bne] at h; cases h; constructor <;> simp [same]
  | beq d => rw [exec_beq] at h; cases h; constructor <;> simp [same]

/-- All a step can write: what the fetched instruction may. -/
theorem step_writesOnly {s t : State} (h : step s = .next t) : WritesOnly (fetch s).1 s t := by
  obtain ⟨_, ⟨i, s', hf, _, he⟩ | ⟨s', hf, rfl⟩ | ⟨op, s', hf, rfl⟩⟩ := step_cases h <;> rw [hf]
  · exact .after_fetch hf (exec_writesOnly he)
  · split
    · exact .after_fetch hf (.of_stop _ _ _)
    · exact .of_stop _ _ _
  · exact .after_fetch hf (.of_stop _ _ _)

end Sys2Proof.Machine
end

section
/-! PROOFS. What every step and every call of the host's keeps (spec/10_state.md R22, R23, R30, R33, R34), each read off
what a step can write. -/

namespace Sys2Proof.Machine

/-! ### The opcode byte -/

/-- The opcode byte of what decodes is the first byte of its encoding. -/
theorem encode_head?_of_decode {op b1 b2 : Byte} {i : Instr} (h : decode op b1 b2 = .ok i) :
    (encode i).head? = some op := by
  unfold decode at h
  split at h <;> cases h <;> rfl

/-- What a fetch decodes begins with the byte read at `pc`. -/
theorem encode_head?_of_fetch {s : State} {i : Instr} (h : (fetch s).1 = .ok i) :
    (encode i).head? = some (busRead s s.pc).1 := by
  rcases fetch_cases s with hf | ⟨r1, _, hf⟩ | ⟨r1, r2, _, _, hf⟩ <;> rw [hf] at h <;> exact encode_head?_of_decode h

/-! ### The registers, the status and the store -/

/-- No comparison writes a dormant bit (spec/10_state.md R27). -/
@[simp] theorem Status.compare_dormant (p : Status) (a b : Byte) : (p.compare a b).dormant = p.dormant := by
  rcases p.compare_cases a b with ⟨_, h⟩ | ⟨_, h⟩ | ⟨_, h⟩ <;> rw [h]

/-- No comparison sets Negative (spec/10_state.md R30). -/
theorem Status.compare_negative {p : Status} (a b : Byte) (h : p.negative = false) :
    (p.compare a b).negative = false := by
  rcases p.compare_cases a b with ⟨_, e⟩ | ⟨_, e⟩ | ⟨_, e⟩ <;> simp [e, h]

theorem WritesOnly.dormant {r : Except DecodeError Instr} {s t : State} (h : WritesOnly r s t) :
    t.status.dormant = s.status.dormant := by
  rcases h.status with e | ⟨u, v, _, e⟩ <;> simp [e]

theorem WritesOnly.negative {r : Except DecodeError Instr} {s t : State} (h : WritesOnly r s t)
    (clear : s.status.negative = false) : t.status.negative = false := by
  rcases h.status with e | ⟨u, v, _, e⟩ <;> rw [e]
  · exact clear
  · exact Status.compare_negative u v clear

/-- Settles O30: each writer of R23 is recognised by the first byte of its encoding. -/
theorem registerWriters : Obligations.RegisterWriters := by
  intro s s0 t op hop h
  have w := step_writesOnly h
  have opcode {i : Instr} {b : Byte} (hi : (fetch s).1 = .ok i) (first : (encode i).head? = some b) : op = b := by
    rw [encode_head?_of_fetch hi, hop] at first
    exact Option.some.inj first
  refine ⟨fun ha => ?_, fun hx => ?_, fun hy => ?_, w.sp, fun hs => ?_, w.dormant, w.sinkFails⟩
  · exact (w.a.resolve_left ha).imp (fun ⟨_, hi⟩ => opcode hi rfl) (fun ⟨_, hi⟩ => opcode hi rfl)
  · exact (w.x.resolve_left hx).imp (fun hi => opcode hi rfl) (fun ⟨_, hi⟩ => opcode hi rfl)
  · exact (w.y.resolve_left hy).imp (fun hi => opcode hi rfl) (fun ⟨_, hi⟩ => opcode hi rfl)
  · obtain ⟨_, _, writer, _⟩ := w.status.resolve_left hs
    exact writer.imp (fun hi => opcode hi rfl) (fun hi => opcode hi rfl)

/-- A load of the host's changes the store and nothing else. -/
theorem loadRom_next {a : Address} {bytes : List Byte} {s t : State} (h : loadRom a bytes s = .next t) :
    t = { s with mem := s.mem.load a bytes } := by
  unfold loadRom at h
  split at h <;> cases h
  rfl

/-- Settles O31: a load and a reset leave the stack pointer and the status alone; a step writes the status by
comparisons. -/
theorem dormantStateIsConstant : Obligations.DormantStateIsConstant := by
  intro c s t h
  cases c with
  | loadRom a bytes => rw [loadRom_next h]; exact ⟨rfl, rfl, id⟩
  | reset => cases h; exact ⟨rfl, rfl, id⟩
  | step =>
    have w := step_writesOnly h
    exact ⟨w.sp, w.dormant, w.negative⟩

/-- Settles O32: the one write of a step is the store's, and it changes the cell it names and no other. -/
theorem onlyStoreWritesMemory : Obligations.OnlyStoreWritesMemory := by
  intro s t b wf h changed
  rcases (step_writesOnly h).mem with same | ⟨b', fetched, written, runState⟩
  · exact absurd (by rw [same]) changed
  · rw [written, Memory.read_write wf] at changed ⊢
    have hb : b = b' := by
      by_contra ne
      exact changed (if_neg ne)
    subst hb
    exact ⟨⟨(fetch s).2, Prod.ext fetched rfl⟩, if_pos rfl, runState.trans (step_cases h).1⟩

/-! ### The devices -/

theorem Device.write_range (fails : List Nat) (d : Device) (a : Address) (v : Byte) :
    (d.write fails a v).device.range = d.range := by
  cases d with
  | charOut out n =>
    rcases Device.write_charOut fails out n a v with ⟨_, e⟩ | ⟨_, _, e⟩ | ⟨_, _, e⟩ <;> rw [e] <;> rfl
  | custom id r data => obtain ⟨data', ⟨handled, e⟩ | e⟩ := Device.write_custom fails id r data a v <;> rw [e] <;> rfl

/-- A device replaced by one with the same range leaves the table of ranges. -/
theorem map_range_set {ds : List Device} {k : Nat} {d d' : Device} (hd : ds[k]? = some d) (same : d'.range = d.range) :
    (ds.set k d').map Device.range = ds.map Device.range := by
  obtain ⟨hk, rfl⟩ := List.getElem?_eq_some_iff.mp hd
  apply List.ext_getElem <;> simp +contextual [List.getElem_set, same]

theorem ReadsTo.map_range {ds es : List Device} (h : ReadsTo ds es) : es.map Device.range = ds.map Device.range := by
  induction h with
  | refl => rfl
  | tail _ last ih =>
    obtain ⟨k, d, a, hd, rfl⟩ := last
    rw [map_range_set hd (d.read_wf a).2, ih]

theorem WrittenTo.map_range {fails : List Nat} {b : Address} {v : Byte} {ds es : List Device}
    (h : WrittenTo fails b v ds es) : es.map Device.range = ds.map Device.range := by
  rcases h with rfl | ⟨k, d, hd, rfl⟩
  · rfl
  · exact map_range_set hd (d.write_range fails b v)

/-- Settles O34: neither a read nor a write hook changes a range. -/
theorem deviceTableIsConstant : Obligations.DeviceTableIsConstant := by
  intro s t h
  obtain ⟨ds, reads, rfl | ⟨b, _, written⟩⟩ := (step_writesOnly h).devices
  · exact reads.map_range
  · rw [written.map_range, reads.map_range]

/-- A sink is unchanged by any reads (spec/60_exceptions.md R214). -/
theorem ReadsTo.sink {ds es : List Device} (h : ReadsTo ds es) {k : Nat} {out : List Byte} {n : Nat}
    (hk : ds[k]? = some (.charOut out n)) : es[k]? = some (.charOut out n) := by
  induction h with
  | refl => exact hk
  | tail _ last ih =>
    obtain ⟨j, d, a, hd, rfl⟩ := last
    by_cases hj : j = k
    · subst hj
      obtain ⟨hlt, _⟩ := List.getElem?_eq_some_iff.mp hd
      obtain rfl : d = .charOut out n := Option.some.inj (hd.symm.trans ih)
      simp [hlt, Device.read_charOut]
    · rw [List.getElem?_set_ne hj, ih]

/-- A write leaves a sink or appends the byte once, which only a write to 0xC000 does. -/
theorem WrittenTo.sink {fails : List Nat} {b : Address} {v : Byte} {ds es : List Device}
    (h : WrittenTo fails b v ds es) {k : Nat} {out : List Byte} {n : Nat} (hk : ds[k]? = some (.charOut out n)) :
    es[k]? = some (.charOut out n) ∨ es[k]? = some (.charOut (out ++ [v]) (n + 1)) ∧ b = 0xC000#16 := by
  rcases h with rfl | ⟨j, d, hd, rfl⟩
  · exact .inl hk
  · by_cases hj : j = k
    · subst hj
      obtain ⟨hlt, _⟩ := List.getElem?_eq_some_iff.mp hd
      obtain rfl : d = .charOut out n := Option.some.inj (hd.symm.trans hk)
      rcases Device.write_charOut fails out n b v with ⟨_, e⟩ | ⟨_, _, e⟩ | ⟨hb, _, e⟩
      · exact .inl (by simp [hlt, e, WriteReply.device])
      · exact .inl (by simp [hlt, e, WriteReply.device])
      · exact .inr ⟨by simp [hlt, e, WriteReply.device], hb⟩
    · exact .inl (by rw [List.getElem?_set_ne hj, hk])

/-- Settles O33: the reads of a step leave a sink, and its one write appends A or leaves it. -/
theorem sinkOutputOnlyGrows : Obligations.SinkOutputOnlyGrows := by
  intro s t k out n h hk
  obtain ⟨ds, reads, rfl | ⟨b, fetched, written⟩⟩ := (step_writesOnly h).devices
  · exact .inl (reads.sink hk)
  · rcases written.sink (reads.sink hk) with same | ⟨grown, rfl⟩
    · exact .inl same
    · exact .inr ⟨grown, (fetch s).2, Prod.ext fetched rfl⟩

/-! ### The invariant -/

/-- A device replaced by a well-formed one leaves well-formed devices. -/
theorem all_wf_set {ds : List Device} (h : ds.all Device.wf = true) (k : Nat) {d : Device} (hd : d.wf = true) :
    (ds.set k d).all Device.wf = true := by
  rw [List.all_eq_true] at h ⊢
  intro e he
  rcases List.mem_or_eq_of_mem_set he with hmem | rfl
  · exact h e hmem
  · exact hd

theorem Device.wf_of_getElem? {ds : List Device} (h : ds.all Device.wf = true) {k : Nat} {d : Device}
    (hd : ds[k]? = some d) : d.wf = true :=
  List.all_eq_true.mp h d (List.mem_of_getElem? hd)

theorem ReadsTo.all_wf {ds es : List Device} (h : ReadsTo ds es) (wf : ds.all Device.wf = true) :
    es.all Device.wf = true := by
  induction h with
  | refl => exact wf
  | tail _ last ih =>
    obtain ⟨k, d, a, hd, rfl⟩ := last
    exact all_wf_set ih k ((d.read_wf a).1.trans (Device.wf_of_getElem? ih hd))

theorem WrittenTo.all_wf {fails : List Nat} {b : Address} {v : Byte} {ds es : List Device}
    (h : WrittenTo fails b v ds es) (wf : ds.all Device.wf = true) : es.all Device.wf = true := by
  rcases h with rfl | ⟨k, d, hd, rfl⟩
  · exact wf
  · exact all_wf_set wf k (Device.write_wf fails d b v (Device.wf_of_getElem? wf hd)).1

/-- Settles O54: a store keeps the canonical form, and every hook keeps its device well formed. -/
theorem stepKeepsInv : Obligations.StepKeepsInv := by
  intro s t inv h
  obtain ⟨memWf, devicesWf⟩ := inv
  have w := step_writesOnly h
  constructor
  · rcases w.mem with same | ⟨b, _, written, _⟩
    · rw [same]; exact memWf
    · rw [written]; exact Memory.write_wf memWf b s.a
  · obtain ⟨ds, reads, rfl | ⟨b, _, written⟩⟩ := w.devices
    · exact reads.all_wf devicesWf
    · exact written.all_wf (reads.all_wf devicesWf)

/-- Settles O53: the one listed cell of the reset state is the vector's high byte, and the sink is empty. -/
theorem resetMeetsInv : Obligations.ResetMeetsInv :=
  ⟨reset_mem_wf, rfl⟩

end Sys2Proof.Machine
end

section
/-! PROOFS. Y, SP, Carry, Negative and the dormant bits influence nothing but themselves (spec/10_state.md R37): each
instruction maps each of the five by a function of its own, and everything else as if they were not there. -/

namespace Sys2Proof.Machine

/-! ### The unobservable part of a state, and overwriting it -/

/-- The part of a state that nothing but itself depends on (R37). -/
structure Unobservable where
  y : Byte
  sp : Byte
  carry : Bool
  negative : Bool
  dormant : BitVec 5

def State.unobservable (s : State) : Unobservable :=
  { y := s.y, sp := s.sp, carry := s.status.carry, negative := s.status.negative, dormant := s.status.dormant }

/-- The state with its unobservable part replaced. -/
def State.withUnobservable (s : State) (u : Unobservable) : State :=
  { s with
    y := u.y
    sp := u.sp
    status := { carry := u.carry, zero := s.status.zero, negative := u.negative, dormant := u.dormant } }

@[simp] theorem State.unobservable_withUnobservable (s : State) (u : Unobservable) :
    (s.withUnobservable u).unobservable = u := rfl

@[simp] theorem State.withUnobservable_self (s : State) : s.withUnobservable s.unobservable = s := rfl

/-- What an instruction does to the unobservable part: a function for each component alone; the stack pointer and the
dormant bits have none, since nothing writes them. -/
structure UnobservableMap where
  y : Byte → Byte := id
  carry : Bool → Bool := id
  negative : Bool → Bool := id

def UnobservableMap.apply (f : UnobservableMap) (u : Unobservable) : Unobservable :=
  { u with y := f.y u.y, carry := f.carry u.carry, negative := f.negative u.negative }

/-- First `f`, then `g`. -/
def UnobservableMap.andThen (f g : UnobservableMap) : UnobservableMap :=
  { y := g.y ∘ f.y, carry := g.carry ∘ f.carry, negative := g.negative ∘ f.negative }

@[simp] theorem UnobservableMap.apply_andThen (f g : UnobservableMap) (u : Unobservable) :
    (f.andThen g).apply u = g.apply (f.apply u) := rfl

/-! ### The bus and the fetch do not see it -/

theorem busRead_withUnobservable (s : State) (u : Unobservable) (a : Address) :
    busRead (s.withUnobservable u) a = ((busRead s a).1, (busRead s a).2.withUnobservable u) := by
  have table : (s.withUnobservable u).deviceAt a = s.deviceAt a := rfl
  unfold busRead
  rw [table]
  cases s.deviceAt a <;> rfl

def BusWrite.withUnobservable : BusWrite → Unobservable → BusWrite
  | .stored s, u => .stored (s.withUnobservable u)
  | .failed s, u => .failed (s.withUnobservable u)

theorem busWrite_withUnobservable (s : State) (u : Unobservable) (a : Address) (v : Byte) :
    busWrite (s.withUnobservable u) a v = (busWrite s a v).withUnobservable u := by
  have table : (s.withUnobservable u).deviceAt a = s.deviceAt a := rfl
  have fails : (s.withUnobservable u).sinkFails = s.sinkFails := rfl
  unfold busWrite
  rw [table, fails]
  cases s.deviceAt a with
  | none => rfl
  | some kd => dsimp only; cases kd.2.write s.sinkFails a v <;> rfl

theorem fetch_withUnobservable (s : State) (u : Unobservable) :
    fetch (s.withUnobservable u) = ((fetch s).1, (fetch s).2.withUnobservable u) := by
  have pc : (s.withUnobservable u).pc = s.pc := rfl
  unfold fetch
  simp only [pc, busRead_withUnobservable]
  split <;> rfl

/-! ### An instruction, a step and a run -/

/-- What a comparison does to Carry and Negative. -/
def compareUnobservable (a b : Byte) : UnobservableMap :=
  { carry := fun _ => !decide (a < b), negative := fun n => if a = b then false else n }

/-- A comparison flag by flag: only Negative depends on the status before, and on Negative alone. -/
theorem Status.compare_eq (p : Status) (a b : Byte) :
    p.compare a b =
      { carry := !decide (a < b)
        zero := decide (a = b)
        negative := if a = b then false else p.negative
        dormant := p.dormant } := by
  rcases p.compare_cases a b with ⟨lt, h⟩ | ⟨gt, h⟩ | ⟨rfl, h⟩ <;> rw [h]
  · simp [lt, BitVec.ne_of_lt lt]
  · simp [BitVec.not_lt.mpr (BitVec.le_of_lt gt), (BitVec.ne_of_lt gt).symm]
  · simp

/-- The registers that are compared are observable, so the comparison has the same operands. -/
theorem compareReg_withUnobservable {s : State} {r : Reg} (hr : r = .a ∨ r = .x) (b : Byte) (u : Unobservable) :
    (s.withUnobservable u).compareReg r b =
      (s.compareReg r b).withUnobservable ((compareUnobservable (s.reg r) b).apply u) := by
  have operand : (s.withUnobservable u).reg r = s.reg r := by rcases hr with rfl | rfl <;> rfl
  simp only [State.compareReg, operand, Status.compare_eq]
  rfl

/-- How an instruction maps the unobservable part: INY and LDY write Y, CPX and CMP write Carry and Negative. -/
def unobservableMap (s : State) : Instr → UnobservableMap
  | .iny => { y := (· + 1#8) }
  | .ldyImmediate v => { y := fun _ => v }
  | .cpx v => compareUnobservable s.x v
  | .cmp v => compareUnobservable s.a v
  | .halt | .inx | .ldaImmediate _ | .ldaAbsX _ | .ldxImmediate _ | .staAbs _ | .jmpAbs _ | .bne _ | .beq _ => {}

theorem exec_withUnobservable {i : Instr} {s t : State} (h : exec i s = .next t) (u : Unobservable) :
    exec i (s.withUnobservable u) = .next (t.withUnobservable ((unobservableMap s i).apply u)) := by
  cases i with
  | staAbs b =>
    have written := busWrite_withUnobservable s u b s.a
    cases hb : busWrite s b s.a with
    | stored s' =>
      rw [exec_staAbs_of_stored hb] at h
      cases h
      rw [hb] at written
      exact exec_staAbs_of_stored written
    | failed s' =>
      rw [exec_staAbs_of_failed hb] at h
      cases h
      rw [hb] at written
      exact exec_staAbs_of_failed written
  | ldaAbsX b =>
    have index : indexedAddress (s.withUnobservable u) b = indexedAddress s b := rfl
    rw [exec_ldaAbsX] at h ⊢
    cases h
    rw [index, busRead_withUnobservable]
    rfl
  | cpx v =>
    rw [exec_cpx] at h ⊢
    cases h
    rw [compareReg_withUnobservable (.inr rfl)]
    rfl
  | cmp v =>
    rw [exec_cmp] at h ⊢
    cases h
    rw [compareReg_withUnobservable (.inl rfl)]
    rfl
  | halt => cases h; rfl
  | inx => cases h; rfl
  | iny => cases h; rfl
  | ldaImmediate v => cases h; rfl
  | ldxImmediate v => cases h; rfl
  | ldyImmediate v => cases h; rfl
  | jmpAbs b => cases h; rfl
  | bne d => cases h; rfl
  | beq d => cases h; rfl

theorem step_withUnobservable {s t : State} (h : step s = .next t) :
    ∃ f : UnobservableMap, ∀ u, step (s.withUnobservable u) = .next (t.withUnobservable (f.apply u)) := by
  obtain ⟨running, ⟨i, s', hf, hi, he⟩ | ⟨s', hf, rfl⟩ | ⟨op, s', hf, rfl⟩⟩ := step_cases h
  · refine ⟨unobservableMap s' i, fun u => ?_⟩
    have fetched := fetch_withUnobservable s u
    rw [hf] at fetched
    rw [step_of_fetch_ok (s := s.withUnobservable u) running fetched hi, exec_withUnobservable he]
  · refine ⟨{}, fun u => ?_⟩
    have fetched := fetch_withUnobservable s u
    rw [hf] at fetched
    rw [step_of_fetch_halt (s := s.withUnobservable u) running fetched, exec_halt]
    split <;> rfl
  · refine ⟨{}, fun u => ?_⟩
    have fetched := fetch_withUnobservable s u
    rw [hf] at fetched
    exact step_of_fetch_error (s := s.withUnobservable u) running fetched

/-- A step maps the unobservable part itself by the same functions: overwrite it by what it is. -/
theorem unobservable_of_step {s t : State} {f : UnobservableMap}
    (h : step s = .next t)
    (all : ∀ u, step (s.withUnobservable u) = .next (t.withUnobservable (f.apply u))) :
    t.unobservable = f.apply s.unobservable := by
  have own := all s.unobservable
  rw [State.withUnobservable_self, h] at own
  rw [Host.Outcome.next.inj own, State.unobservable_withUnobservable]

/-- A run ignores the unobservable part. -/
theorem steps_withUnobservable {s t : State} (h : Steps s t) :
    ∃ f : UnobservableMap, t.unobservable = f.apply s.unobservable ∧
      ∀ u, Steps (s.withUnobservable u) (t.withUnobservable (f.apply u)) := by
  induction h with
  | refl s => exact ⟨{}, rfl, fun u => .refl _⟩
  | head first _ ih =>
    obtain ⟨f, hf⟩ := step_withUnobservable first
    obtain ⟨g, own, hg⟩ := ih
    refine ⟨f.andThen g, ?_, fun u => .head (hf u) (hg _)⟩
    rw [own, unobservable_of_step first hf, UnobservableMap.apply_andThen]

/-- Settles O35: overwrite one component of the unobservable part and keep the others; the run maps each of the five
alone, so that the others end as they did. -/
theorem unobservableStateHasNoInfluence : Obligations.UnobservableStateHasNoInfluence := by
  intro s t h
  obtain ⟨f, own, runs⟩ := steps_withUnobservable h
  have ends {u v : Unobservable} (e : v = f.apply u) : Steps (s.withUnobservable u) (t.withUnobservable v) :=
    e ▸ runs u
  refine ⟨fun y => ⟨f.y y, ?_⟩, fun sp => ?_, fun c => ⟨f.carry c, ?_⟩, fun n => ⟨f.negative n, ?_⟩, fun d => ?_⟩
  · exact ends (u := { s.unobservable with y := y }) (v := { t.unobservable with y := f.y y }) (by rw [own]; rfl)
  · exact ends (u := { s.unobservable with sp := sp }) (v := { t.unobservable with sp := sp }) (by rw [own]; rfl)
  · exact ends (u := { s.unobservable with carry := c }) (v := { t.unobservable with carry := f.carry c })
      (by rw [own]; rfl)
  · exact ends (u := { s.unobservable with negative := n }) (v := { t.unobservable with negative := f.negative n })
      (by rw [own]; rfl)
  · exact ends (u := { s.unobservable with dormant := d }) (v := { t.unobservable with dormant := d })
      (by rw [own]; rfl)

end Sys2Proof.Machine
end

section
/-! PROOFS. Data that is determined by what can be read of it: the canonical store by its cells (spec/10_state.md R32),
the status by its byte (R27). -/

namespace Sys2Proof.Machine

/-! ### The store -/

/-- Where a canonical store reads something, it lists an address no higher. -/
theorem Memory.le_of_readNat_ne {low a : Nat} {m : Memory} (h : Memory.wfFrom low m = true)
    (ne : Memory.readNat m a ≠ Memory.unlisted) : low ≤ a := by
  by_contra lt
  exact ne (Memory.readNat_of_lt h (by omega))

theorem Memory.readNat_head (k : Nat) (v : Byte) (rest : Memory) : Memory.readNat ((k, v) :: rest) k = v := by
  simp [Memory.readNat]

theorem Memory.readNat_tail {k a : Nat} (v : Byte) (rest : Memory) (ne : k ≠ a) :
    Memory.readNat ((k, v) :: rest) a = Memory.readNat rest a := by
  simp [Memory.readNat, ne]

/-- The first listed address of a canonical store is no higher than that of another that reads the same. -/
theorem Memory.first_le_of_readNat_eq {k k' : Nat} {v v' : Byte} {rest rest' : Memory} {low : Nat}
    (h : Memory.wfFrom low ((k, v) :: rest) = true) (h' : Memory.wfFrom low ((k', v') :: rest') = true)
    (same : ∀ a < Config.memSize, Memory.readNat ((k, v) :: rest) a = Memory.readNat ((k', v') :: rest') a) :
    k ≤ k' := by
  obtain ⟨_, bound, listed, _⟩ := (Memory.wfFrom_cons _ _ _ _).mp h'
  obtain ⟨_, kBound, kListed, tail⟩ := (Memory.wfFrom_cons _ _ _ _).mp h
  have fromK : Memory.wfFrom k ((k, v) :: rest) = true :=
    (Memory.wfFrom_cons _ _ _ _).mpr ⟨le_rfl, kBound, kListed, tail⟩
  refine Memory.le_of_readNat_ne fromK ?_
  rw [same k' bound, Memory.readNat_head]
  exact listed

/-- Canonical stores that read the same at every address are equal, cell by cell. -/
theorem Memory.eq_of_readNat_eq {low : Nat} {m m' : Memory} (h : Memory.wfFrom low m = true)
    (h' : Memory.wfFrom low m' = true) (same : ∀ a < Config.memSize, Memory.readNat m a = Memory.readNat m' a) :
    m = m' := by
  induction m generalizing low m' with
  | nil =>
    cases m' with
    | nil => rfl
    | cons c' rest' =>
      obtain ⟨_, bound, listed, _⟩ := (Memory.wfFrom_cons _ _ _ _).mp h'
      exact absurd ((same c'.1 bound).trans (Memory.readNat_head _ _ _)).symm listed
  | cons c rest ih =>
    obtain ⟨k, v⟩ := c
    obtain ⟨_, bound, listed, tail⟩ := (Memory.wfFrom_cons _ _ _ _).mp h
    cases m' with
    | nil => exact absurd ((Memory.readNat_head k v rest).symm.trans (same k bound)) listed
    | cons c' rest' =>
      obtain ⟨k', v'⟩ := c'
      obtain ⟨_, _, _, tail'⟩ := (Memory.wfFrom_cons _ _ _ _).mp h'
      obtain rfl : k = k' := le_antisymm (Memory.first_le_of_readNat_eq h h' same)
        (Memory.first_le_of_readNat_eq h' h fun a ha => (same a ha).symm)
      obtain rfl : v = v' := by simpa [Memory.readNat_head] using same k bound
      have tails : ∀ a < Config.memSize, Memory.readNat rest a = Memory.readNat rest' a := by
        intro a ha
        by_cases hk : k = a
        · rw [Memory.readNat_of_lt tail (by omega), Memory.readNat_of_lt tail' (by omega)]
        · simpa [Memory.readNat_tail, hk] using same a ha
      rw [ih tail tail' tails]

/-- Settles O37, by induction on the list of cells. -/
theorem equalReadsEqualMemory : Obligations.EqualReadsEqualMemory := by
  intro m m' wf wf' same
  refine Memory.eq_of_readNat_eq wf wf' fun a ha => ?_
  have read := same (BitVec.ofNat 16 a)
  rwa [Memory.read, Memory.read, BitVec.toNat_ofNat, Nat.mod_eq_of_lt ha] at read

/-! ### The status byte -/

theorem mem_dormantPositions {fb : Config.FlagBits} {i : Fin 8} :
    i ∈ dormantPositions fb ↔ i ≠ fb.c ∧ i ≠ fb.z ∧ i ≠ fb.n := by
  simp [dormantPositions, isFlagPosition, and_assoc]

theorem dormantPositions_nodup (fb : Config.FlagBits) : (dormantPositions fb).Nodup :=
  (List.nodup_finRange 8).filter _

/-- Three distinct flags leave five positions. -/
theorem dormantPositions_length {fb : Config.FlagBits} (hwf : fb.wf = true) : (dormantPositions fb).length = 5 := by
  obtain ⟨hcz, hcn, hzn⟩ := (Config.FlagBits.wf_iff fb).mp hwf
  have flags : ({fb.c, fb.z, fb.n} : Finset (Fin 8)).card = 3 :=
    Finset.card_eq_three.mpr ⟨_, _, _, hcz, hcn, hzn, rfl⟩
  have others : (dormantPositions fb).toFinset = ({fb.c, fb.z, fb.n} : Finset (Fin 8))ᶜ := by
    ext i
    simp [mem_dormantPositions]
  rw [← List.toFinset_card_of_nodup (dormantPositions_nodup fb), others, Finset.card_compl, flags]
  rfl

/-- The bit at the position of a dormant bit is that dormant bit. -/
theorem Status.bitAt_dormantPositions (p : Status) {fb : Config.FlagBits} {k : Nat}
    (hk : k < (dormantPositions fb).length) : p.bitAt fb (dormantPositions fb)[k] = p.dormant.getLsbD k := by
  obtain ⟨hc, hz, hn⟩ := mem_dormantPositions.mp (List.getElem_mem hk)
  simp [Status.bitAt, hc, hz, hn, (dormantPositions_nodup fb).idxOf_getElem k hk]

/-- The dormant bits read from a byte are the byte's bits at the dormant positions. -/
theorem Status.ofByte_dormant {fb : Config.FlagBits} (hwf : fb.wf = true) (v : Byte) {k : Nat}
    (hk : k < (dormantPositions fb).length) :
    (Status.ofByte fb v).dormant.getLsbD k = v.getLsbD (dormantPositions fb)[k] := by
  have bound : k < 5 := dormantPositions_length hwf ▸ hk
  simp [Status.ofByte, bound, hk]

theorem Status.ofByte_flag (fb : Config.FlagBits) (v : Byte) (f : Flag) :
    (Status.ofByte fb v).flag f = v.getLsbD (flagPosition fb f) := by
  cases f <;> rfl

/-- A byte taken apart shows each of its bits where it was. -/
theorem Status.bitAt_ofByte {fb : Config.FlagBits} (hwf : fb.wf = true) (v : Byte) (i : Fin 8) :
    (Status.ofByte fb v).bitAt fb i = v.getLsbD i := by
  by_cases dormant : i ∈ dormantPositions fb
  · obtain ⟨k, hk, rfl⟩ := List.mem_iff_getElem.mp dormant
    rw [Status.bitAt_dormantPositions _ hk, Status.ofByte_dormant hwf v hk]
  · have flag : ∃ f, i = flagPosition fb f := by
      by_contra noFlag
      exact dormant (mem_dormantPositions.mpr
        ⟨fun h => noFlag ⟨.c, h⟩, fun h => noFlag ⟨.z, h⟩, fun h => noFlag ⟨.n, h⟩⟩)
    obtain ⟨f, rfl⟩ := flag
    rw [Status.bitAt_flagPosition _ hwf, Status.ofByte_flag]

theorem Status.toByte_ofByte {fb : Config.FlagBits} (hwf : fb.wf = true) (v : Byte) :
    (Status.ofByte fb v).toByte fb = v := by
  apply BitVec.eq_of_getLsbD_eq
  intro i hi
  exact (Status.toByte_getLsbD _ fb ⟨i, hi⟩).trans (Status.bitAt_ofByte hwf v ⟨i, hi⟩)

/-- A status is its three flags and its dormant bits. -/
theorem Status.eq_of_flag_eq {p q : Status} (flags : ∀ f, p.flag f = q.flag f) (dormant : p.dormant = q.dormant) :
    p = q := by
  cases p
  cases q
  exact (Status.mk.injEq ..).mpr ⟨flags .c, flags .z, flags .n, dormant⟩

theorem Status.ofByte_toByte {fb : Config.FlagBits} (hwf : fb.wf = true) (p : Status) :
    Status.ofByte fb (p.toByte fb) = p := by
  refine Status.eq_of_flag_eq (fun f => ?_) (BitVec.eq_of_getLsbD_eq fun k hk => ?_)
  · rw [Status.ofByte_flag, Status.toByte_getLsbD, Status.bitAt_flagPosition p hwf]
  · have listed : k < (dormantPositions fb).length := by rwa [dormantPositions_length hwf]
    rw [Status.ofByte_dormant hwf _ listed, Status.toByte_getLsbD, Status.bitAt_dormantPositions p listed]

/-- Settles O44: every bit of the byte is a flag or a dormant bit, and every one of those is a bit of the byte. -/
theorem statusByteRoundTrip : Obligations.StatusByteRoundTrip := fun _ hwf =>
  ⟨Status.toByte_ofByte hwf, Status.ofByte_toByte hwf⟩

end Sys2Proof.Machine
end

section
/-! PROOFS. The device table and the bus (spec/20_memory.md R52 to R55, R71): which device an address belongs to, and
what a bus read and a bus write answer in each case. -/

namespace Sys2Proof

/-- A range includes both ends, over unsigned values (spec/20_memory.md R56). -/
theorem AddressRange.contains_iff (r : AddressRange) (a : Address) :
    r.contains a = true ↔ r.first.toNat ≤ a.toNat ∧ a.toNat ≤ r.last.toNat := by
  simp [AddressRange.contains, BitVec.le_def]

end Sys2Proof

namespace Sys2Proof.Machine

/-! ### The device table -/

/-- A device claims what its range contains, whatever state it is in. -/
theorem Device.claims_eq_contains (d : Device) (a : Address) : d.claims a = d.range.contains a := rfl

/-- The device registered last decides first: the table is extended at its end. -/
theorem mapDevices_concat (k : Nat) (a : Address) (prior : Option (Nat × Device)) (ds : List Device) (d : Device) :
    mapDevices k a prior (ds ++ [d]) = mapDevice (k + ds.length) d a (mapDevices k a prior ds) := by
  induction ds generalizing k prior with
  | nil => rfl
  | cons e rest ih =>
    have count : k + (e :: rest).length = k + 1 + rest.length := by simp only [List.length_cons]; omega
    rw [count]
    exact ih (k + 1) (mapDevice k e a prior)

theorem mapDevices_eq_none_iff (k : Nat) (a : Address) (ds : List Device) :
    mapDevices k a none ds = none ↔ ∀ d ∈ ds, d.claims a = false := by
  induction ds using List.reverseRecOn with
  | nil => simp [mapDevices]
  | append_singleton ds d ih =>
    cases hd : d.claims a <;> simp [mapDevices_concat, mapDevice, hd, ih, or_imp, forall_and]

/-- No device registered after the one the table names claims the address. -/
theorem mapDevices_claims_of_lt {a : Address} {ds : List Device} {k : Nat} {d : Device}
    (h : mapDevices 0 a none ds = some (k, d)) {j : Nat} {e : Device} (lt : k < j) (he : ds[j]? = some e) :
    e.claims a = false := by
  induction ds using List.reverseRecOn with
  | nil => cases h
  | append_singleton ds last ih =>
    obtain ⟨hj, _⟩ := List.getElem?_eq_some_iff.mp he
    rw [List.length_append, List.length_singleton] at hj
    rw [mapDevices_concat, mapDevice] at h
    split at h
    case isTrue claimed =>
      have last_named : 0 + ds.length = k := congrArg Prod.fst (Option.some.inj h)
      omega
    case isFalse unclaimed =>
      by_cases hlast : j = ds.length
      · rw [hlast, List.getElem?_concat_length] at he
        rw [← Option.some.inj he]
        exact Bool.eq_false_iff.mpr unclaimed
      · rw [List.getElem?_append_left (by omega)] at he
        exact ih h he

theorem State.deviceAt_eq_none_iff (s : State) (a : Address) :
    s.deviceAt a = none ↔ ∀ d ∈ s.devices, d.claims a = false :=
  mapDevices_eq_none_iff 0 a s.devices

/-- The table names the last claimer (spec/20_memory.md R55): it names one, no later device claims the address, and
two devices cannot both be last. -/
theorem State.deviceAt_eq_some_iff (s : State) (a : Address) (k : Nat) (d : Device) :
    s.deviceAt a = some (k, d) ↔
      s.devices[k]? = some d ∧ d.claims a = true ∧
        ∀ (j : Nat) (e : Device), k < j → s.devices[j]? = some e → e.claims a = false := by
  constructor
  · intro h
    obtain ⟨registered, claimed⟩ := State.deviceAt_some h
    exact ⟨registered, claimed, fun _ _ lt he => mapDevices_claims_of_lt h lt he⟩
  · rintro ⟨registered, claimed, last⟩
    cases h : s.deviceAt a with
    | none =>
      have unclaimed := (s.deviceAt_eq_none_iff a).mp h d (List.mem_of_getElem? registered)
      exact absurd claimed (Bool.eq_false_iff.mp unclaimed)
    | some named =>
      obtain ⟨k', d'⟩ := named
      obtain ⟨registered', claimed'⟩ := State.deviceAt_some h
      have not_before : ¬k' < k := fun lt =>
        Bool.eq_false_iff.mp (mapDevices_claims_of_lt h lt registered) claimed
      have not_after : ¬k < k' := fun lt => Bool.eq_false_iff.mp (last k' d' lt registered') claimed'
      obtain rfl : k' = k := by omega
      rw [Option.some.inj (registered.symm.trans registered')]

/-- Settles O39: the table names the last claimer, and none where there is none. -/
theorem laterDeviceWins : Obligations.LaterDeviceWins := by
  intro s a
  have named := s.deviceAt_eq_some_iff a
  have unnamed := s.deviceAt_eq_none_iff a
  simp only [Bool.eq_false_iff, ne_eq, Device.claims_eq_contains, AddressRange.contains_iff, and_assoc] at named unnamed
  exact ⟨named, unnamed⟩

/-- Whether any device claims an address is decided by the ranges alone. -/
theorem State.deviceAt_eq_none_of_map_range {s t : State} {a : Address}
    (same : t.devices.map Device.range = s.devices.map Device.range) (h : s.deviceAt a = none) :
    t.deviceAt a = none := by
  have by_ranges (u : State) : u.deviceAt a = none ↔ ∀ r ∈ u.devices.map Device.range, r.contains a = false := by
    simp [State.deviceAt_eq_none_iff, Device.claims_eq_contains]
  rw [by_ranges] at h ⊢
  rwa [same]

/-! ### A bus read and a bus write, case by case -/

theorem busRead_of_claimed {s : State} {a : Address} {k : Nat} {d : Device} (h : s.deviceAt a = some (k, d)) :
    busRead s a =
      (if (d.read a).handled then (d.read a).value else s.mem.read a, s.setDevice k (d.read a).device) := by
  simp [busRead, h]

theorem busWrite_of_unclaimed {s : State} {a : Address} (v : Byte) (h : s.deviceAt a = none) :
    busWrite s a v = .stored (s.store a v) := by
  simp [busWrite, h]

theorem busWrite_of_done {s : State} {a : Address} {v : Byte} {k : Nat} {d d' : Device} {handled : Bool}
    (h : s.deviceAt a = some (k, d)) (hook : d.write s.sinkFails a v = .done d' handled) :
    busWrite s a v = .stored ((s.setDevice k d').store a v) := by
  simp [busWrite, h, hook]

theorem busWrite_of_ioFailure {s : State} {a : Address} {v : Byte} {k : Nat} {d d' : Device}
    (h : s.deviceAt a = some (k, d)) (hook : d.write s.sinkFails a v = .ioFailure d') :
    busWrite s a v = .failed (s.setDevice k d') := by
  simp [busWrite, h, hook]

/-- A device set to what it is already. -/
theorem State.setDevice_self {s : State} {k : Nat} {d : Device} (h : s.devices[k]? = some d) :
    s.setDevice k d = s := by
  obtain ⟨_, rfl⟩ := List.getElem?_eq_some_iff.mp h
  simp [State.setDevice]

/-- Settles O40: no device, the sink, which declines, or a device whose hook decides. -/
theorem busReadRule : Obligations.BusReadRule := by
  intro s a
  refine ⟨busRead_of_unclaimed, fun k out n h => ?_, fun k id range data h => busRead_of_claimed h⟩
  rw [busRead_of_claimed h, Device.read_charOut, State.setDevice_self (State.deviceAt_some h).1]
  rfl

/-- Settles O41: each end of the write hook, and the store whose hook failed. -/
theorem busWriteRule : Obligations.BusWriteRule := fun _ _ v =>
  ⟨busWrite_of_unclaimed v,
    fun _ _ h => ⟨fun _ _ hook => busWrite_of_done h hook, fun _ hook => busWrite_of_ioFailure h hook⟩,
    fun _ failed => exec_staAbs_of_failed failed⟩

/-- Settles O36: neither the fetch nor the step changes a range, so no device claims the address when the byte is
stored or when it is read. -/
theorem storeIsSeenByNextFetch : Obligations.StoreIsSeenByNextFetch := by
  intro s s' t ea wf fetched unclaimed stepped
  have ranges : (fetch s).2.devices.map Device.range = s.devices.map Device.range := (fetch_readsTo s).map_range
  have unclaimed' : (fetch s).2.deviceAt ea = none := State.deviceAt_eq_none_of_map_range ranges unclaimed
  have unclaimed_after : t.deviceAt ea = none :=
    State.deviceAt_eq_none_of_map_range (deviceTableIsConstant s t stepped) unclaimed
  obtain rfl : (fetch s).2 = s' := congrArg Prod.snd fetched
  have stored := exec_staAbs_of_stored (busWrite_of_unclaimed (fetch s).2.a unclaimed')
  rw [step_of_fetch_ok (step_cases stepped).1 fetched (by simp), stored] at stepped
  have cell : t.mem.read ea = s.a := by
    rw [← Host.Outcome.next.inj stepped]
    simp [Memory.read_write wf]
  rw [busRead_of_unclaimed unclaimed_after, cell]

end Sys2Proof.Machine
end

section
/-! PROOFS. What the host is refused and what a load leaves (spec/20_memory.md R60, R61). -/

namespace Sys2Proof

/-- R60 over unsigned values: what makes a range ill formed. -/
theorem AddressRange.wf_eq_false_iff (r : AddressRange) :
    r.wf = false ↔
      r.last.toNat < r.first.toNat ∨ (r.first.toNat ≤ 0xFFFC ∧ 0xFFFC ≤ r.last.toNat) ∨
        (r.first.toNat ≤ 0xFFFD ∧ 0xFFFD ≤ r.last.toNat) := by
  have inverted : r.ordered = false ↔ r.last.toNat < r.first.toNat := by
    simp [AddressRange.ordered, BitVec.lt_def]
  have onVector : r.avoidsVector = false ↔
      r.contains Config.resetVectorAddr = true ∨ r.contains (Config.resetVectorAddr + 1#16) = true := by
    simp [AddressRange.avoidsVector, imp_iff_not_or]
  rw [AddressRange.wf, Bool.and_eq_false_iff, inverted, onVector, AddressRange.contains_iff, AddressRange.contains_iff]
  rfl

/-- Where the flags' positions are distinct, what can make a launch ill formed is a device's range. -/
theorem Launch.wf_eq_false_iff {l : Launch} (flagsApart : l.flagBits.wf = true) :
    l.wf = false ↔ ∃ d ∈ l.devices, d.range.wf = false := by
  simp [Launch.wf, flagsApart]

end Sys2Proof

namespace Sys2Proof.Machine

theorem construct_refused_iff (l : Launch) : construct l = .refused .illFormedConfiguration ↔ l.wf = false := by
  cases wf : l.wf <;> simp [construct, wf]

/-- Settles O47: a launch is refused for its ill-formed ranges, each ill formed in one of the three ways. -/
theorem illFormedDevicesAreRefused : Obligations.IllFormedDevicesAreRefused := by
  intro l flagsApart
  simp only [construct_refused_iff, Launch.wf_eq_false_iff flagsApart, AddressRange.wf_eq_false_iff]

/-! ### Loading an image -/

/-- The cells outside the image keep their bytes. -/
theorem Memory.read_load_outside {m : Memory} (wf : m.wf = true) {a b : Address} {bytes : List Byte}
    (bound : a.toNat + bytes.length ≤ 65536)
    (outside : b.toNat < a.toNat ∨ a.toNat + bytes.length ≤ b.toNat) : (m.load a bytes).read b = m.read b := by
  induction bytes generalizing m a with
  | nil => rfl
  | cons v rest ih =>
    simp only [List.length_cons] at bound outside
    have next : (a + 1#16).toNat = (a.toNat + 1) % 65536 := by simp
    have ne : b ≠ a := by rintro rfl; omega
    have tail : ((m.write a v).load (a + 1#16) rest).read b = (m.write a v).read b :=
      ih (Memory.write_wf wf a v) (by omega) (by omega)
    rw [Memory.load, tail, Memory.read_write wf, if_neg ne]

/-- Each byte of the image is in its cell: the rest of the copy lies above it. -/
theorem Memory.read_load_inside {m : Memory} (wf : m.wf = true) {a : Address} {bytes : List Byte} {i : Nat} {v : Byte}
    (bound : a.toNat + bytes.length ≤ 65536) (hi : bytes[i]? = some v) :
    (m.load a bytes).read (BitVec.ofNat 16 (a.toNat + i)) = v := by
  induction bytes generalizing m a i with
  | nil => cases hi
  | cons w rest ih =>
    have next : (a + 1#16).toNat = (a.toNat + 1) % 65536 := by simp
    simp only [List.length_cons] at bound
    cases i with
    | zero =>
      obtain rfl : w = v := by simpa using hi
      have first : BitVec.ofNat 16 (a.toNat + 0) = a := by simp
      rw [first, Memory.load, Memory.read_load_outside (Memory.write_wf wf a w) (by omega) (by omega),
        Memory.read_write wf, if_pos rfl]
    | succ i =>
      have hi' : rest[i]? = some v := by simpa using hi
      obtain ⟨below, _⟩ := List.getElem?_eq_some_iff.mp hi'
      have shifted : a.toNat + (i + 1) = (a + 1#16).toNat + i := by omega
      rw [shifted]
      exact ih (Memory.write_wf wf a w) (by omega) hi'

/-- Settles O38: the one store that answers is the copy, cell by cell inside the image and outside it. -/
theorem loadRomRule : Obligations.LoadRomRule := fun s address bytes wf =>
  ⟨fun bound =>
    ⟨s.mem.load address bytes, if_neg (Nat.not_lt.mpr bound), fun _ _ => Memory.read_load_inside wf bound,
      fun _ => Memory.read_load_outside wf bound⟩,
    fun past => if_pos past⟩

end Sys2Proof.Machine
end

section
/-! PROOFS. The listed accesses of a step account for the store and the devices it leaves (spec/20_memory.md R73): those
of the fetch, and then that of the instruction. -/

namespace Sys2Proof.Machine

/-- The fetch is its listed reads. -/
theorem foldl_fetchAccesses (s : State) :
    (fetchAccesses s.pc (busRead s s.pc).1).foldl performAccess s = (fetch s).2 := by
  unfold fetchAccesses fetch
  dsimp only
  split <;> rfl

theorem fetchAccesses_head? (p0 : Address) (op : Byte) : (fetchAccesses p0 op).head? = some (.read p0) := by
  unfold fetchAccesses
  split <;> rfl

theorem fetchAccesses_length_le (p0 : Address) (op : Byte) : (fetchAccesses p0 op).length ≤ 3 := by
  unfold fetchAccesses
  split <;> simp

theorem dataAccesses_length_le (i : Instr) (s : State) : (dataAccesses i s).length ≤ 1 := by
  cases i <;> simp [dataAccesses]

/-- An instruction leaves the store and the devices as its data access does. -/
theorem exec_accounted {i : Instr} {s t : State} (h : exec i s = .next t) :
    t.mem = ((dataAccesses i s).foldl performAccess s).mem ∧
      t.devices = ((dataAccesses i s).foldl performAccess s).devices := by
  cases i with
  | staAbs b =>
    cases hb : busWrite s b s.a with
    | stored s' =>
      rw [exec_staAbs_of_stored hb] at h
      cases h
      simp [dataAccesses, performAccess, absoluteAddress, hb]
    | failed s' =>
      rw [exec_staAbs_of_failed hb] at h
      cases h
      simp [dataAccesses, performAccess, absoluteAddress, hb]
  | halt | inx | iny | ldaImmediate _ | ldaAbsX _ | ldxImmediate _ | ldyImmediate _ | jmpAbs _ | cpx _ | cmp _ | bne _
  | beq _ => cases h; exact ⟨rfl, rfl⟩

/-- HALT alone halts: every other instruction leaves the latch or, where a device fails its store, faults. -/
theorem exec_runState {i : Instr} {s t : State} (hi : i ≠ .halt) (h : exec i s = .next t) :
    t.runState = s.runState ∨ ∃ cause, t.runState = .faulted cause := by
  cases i with
  | halt => exact absurd rfl hi
  | staAbs b =>
    obtain ⟨_, _, rfl | rfl⟩ := exec_staAbs_cases h
    · exact .inl rfl
    · exact .inr ⟨_, rfl⟩
  | ldaAbsX b => cases h; exact .inl (busRead_runState s _)
  | inx | iny | ldaImmediate _ | ldxImmediate _ | ldyImmediate _ | jmpAbs _ | cpx _ | cmp _ | bne _ | beq _ =>
    cases h; exact .inl rfl

/-- A step's accesses are its fetch reads and at most one data access. -/
theorem stepAccesses_eq_append (s : State) :
    ∃ data, data.length ≤ 1 ∧ stepAccesses s = fetchAccesses s.pc (busRead s s.pc).1 ++ data := by
  refine ⟨_, ?_, rfl⟩
  split
  · exact dataAccesses_length_le _ _
  · exact Nat.zero_le 1

theorem stepAccesses_length_le (s : State) : (stepAccesses s).length ≤ 4 := by
  obtain ⟨data, atMostOne, h⟩ := stepAccesses_eq_append s
  have fetched := fetchAccesses_length_le s.pc (busRead s s.pc).1
  rw [h, List.length_append]
  omega

theorem stepAccesses_head? (s : State) : (stepAccesses s).head? = some (.read s.pc) := by
  obtain ⟨data, _, h⟩ := stepAccesses_eq_append s
  simp [h, List.head?_append, fetchAccesses_head?]

theorem foldl_stepAccesses_of_fetch_ok {s s' : State} {i : Instr} (h : fetch s = (.ok i, s')) :
    (stepAccesses s).foldl performAccess s = (dataAccesses i s').foldl performAccess s' := by
  rw [stepAccesses, List.foldl_append, foldl_fetchAccesses, h]

theorem foldl_stepAccesses_of_fetch_error {s s' : State} {e : DecodeError} (h : fetch s = (.error e, s')) :
    (stepAccesses s).foldl performAccess s = s' := by
  rw [stepAccesses, List.foldl_append, foldl_fetchAccesses, h]
  rfl

/-- Settles O10, by what the step ran: an instruction other than HALT, which does not halt; HALT, which accesses
nothing after its fetch; or an illegal opcode's stop. -/
theorem accessesAccountForStep : Obligations.AccessesAccountForStep := by
  intro s t h
  rw [← and_assoc]
  refine ⟨?_, stepAccesses_length_le s, stepAccesses_head? s⟩
  obtain ⟨running, ⟨i, s', hf, hi, he⟩ | ⟨s', hf, rfl⟩ | ⟨op, s', hf, rfl⟩⟩ := step_cases h
  · have latch : s'.runState = .running := by simpa [hf, running] using fetch_runState s
    have notHalted : t.runState ≠ .halted := by
      rcases exec_runState hi he with same | ⟨cause, faulted⟩
      · simp [same, latch]
      · simp [faulted]
    rw [foldl_stepAccesses_of_fetch_ok hf, if_neg fun stopped => notHalted stopped.1]
    exact exec_accounted he
  · have sameStore : s'.mem = s.mem := by simpa [hf] using fetch_mem s
    rw [foldl_stepAccesses_of_fetch_ok hf]
    cases Config.haltKeepsFetch <;> simp [dataAccesses, sameStore]
  · rw [foldl_stepAccesses_of_fetch_error hf]
    simp

end Sys2Proof.Machine
end

section
/-! PROOFS. The encoding: the decoder and the encoder are inverse to each other, which bytes are opcodes, and the
displacement of a branch (spec/30_encoding.md R90 to R102). -/

namespace Sys2Proof

/-! ### The round trip -/

/-- Settles O1, by the instruction: the opcode byte picks its own arm and an operand byte is its own value, so that what
is left is the address, cut into its two bytes and put together again. -/
theorem decodeOfEncode : Obligations.DecodeOfEncode := by
  intro i following
  cases i with
  | halt | inx | iny => rfl
  | ldaImmediate | ldxImmediate | ldyImmediate | cpx | cmp => rfl
  | bne | beq => rfl
  | ldaAbsX addr16 | staAbs addr16 | jmpAbs addr16 => simp [decodeBytes, encode, decode, littleEndian_low_high]

/-- An address put together from two bytes is cut into the same two. -/
theorem lowByte_highByte_littleEndian (low high : Byte) :
    [lowByte (littleEndian low high), highByte (littleEndian low high)] = [low, high] := by
  rw [lowByte_littleEndian, highByte_littleEndian]

/-- Settles O2, by the decoder's arms: the bytes an instruction has are its opcode and its operand, and an address gives
back the two bytes it was formed of. -/
theorem encodeOfDecode : Obligations.EncodeOfDecode := by
  intro b0 b1 b2 i h
  unfold decode at h
  split at h <;> cases h
  -- LDA_ABS_X, STA_ABS and JMP_ABS, the three whose operand is an address.
  case h_5 | h_8 | h_9 => exact congrArg (List.cons _) (lowByte_highByte_littleEndian b1 b2)
  all_goals rfl

/-- Settles O3: each sample is the encoding of its instruction, bytes and all, so the round trip decodes it. -/
theorem sampleWordsDecode : Obligations.SampleWordsDecode :=
  ⟨decodeOfEncode .halt [], decodeOfEncode .inx [], decodeOfEncode (.ldaAbsX 0x8011#16) [],
    decodeOfEncode (.staAbs 0xC000#16) [], decodeOfEncode (.jmpAbs 0x8002#16) [], decodeOfEncode (.cpx 0x05#8) [],
    decodeOfEncode (.bne 0xFB#8) []⟩

/-! ### The legal opcode bytes -/

/-- R96: a byte announces a format exactly where it is one of the thirteen opcodes. -/
theorem formatOf_eq_none_iff (op : Byte) :
    formatOf op = none ↔
      op ∉ [0x00#8, 0x4C#8, 0x8D#8, 0xA0#8, 0xA2#8, 0xA9#8, 0xBD#8, 0xC8#8, 0xC9#8, 0xD0#8, 0xE0#8, 0xE8#8, 0xF0#8] := by
  unfold formatOf
  split
  -- The last arm, a byte other than the thirteen; every other arm is one fixed byte.
  case h_14 => simp_all
  all_goals decide

/-- Settles O13: the decoder rejects exactly the bytes without a format, and those are counted one by one. -/
theorem decoderRejectsIllegalOpcodesByName : Obligations.DecoderRejectsIllegalOpcodesByName := by
  refine ⟨fun op b1 b2 => ⟨fun legal => ?_, fun illegal => ?_⟩, by decide +kernel⟩
  · cases h : decode op b1 b2 with
    | ok i => exact ⟨i, rfl⟩
    | error e => exact absurd legal ((formatOf_eq_none_iff op).mp (formatOf_of_decode_error h).1)
  · exact decode_of_formatOf_none b1 b2 ((formatOf_eq_none_iff op).mpr illegal)

end Sys2Proof

namespace Sys2Proof.Machine

/-! ### The displacement of a branch -/

/-- Sign extension keeps the signed value. -/
@[simp] theorem sext16_toInt (d : Byte) : (sext16 d).toInt = d.toInt :=
  BitVec.toInt_signExtend_of_le (by decide)

@[simp] theorem lowByte_sext16 (d : Byte) : lowByte (sext16 d) = d := by
  ext i hi
  have inWord : i < 16 := by omega
  simp [lowByte, sext16, BitVec.getElem_signExtend, hi, inWord]

/-- The sign-extended bytes are the 16-bit offsets from -128 to 127, each of its own low byte. -/
theorem eq_sext16_iff (v : Address) (d : Byte) :
    v = sext16 d ↔ (-128 ≤ v.toInt ∧ v.toInt ≤ 127) ∧ lowByte v = d := by
  constructor
  · rintro rfl
    have low := d.le_toInt
    have high := d.toInt_lt
    refine ⟨?_, lowByte_sext16 d⟩
    rw [sext16_toInt]
    omega
  · rintro ⟨⟨low, high⟩, rfl⟩
    apply BitVec.eq_of_toInt_eq
    rw [sext16_toInt]
    simp only [BitVec.toInt_eq_toNat_cond, lowByte_toNat] at *
    omega

/-- R102 is R170 read backwards: a displacement is assembled for a label exactly where it branches there. -/
theorem branchDisplacement_eq_some_iff (p0 label : Address) (rel8 : Byte) :
    branchDisplacement p0 label = some rel8 ↔ branchTarget p0 rel8 = label := by
  calc branchDisplacement p0 label = some rel8
      ↔ label - (p0 + 2#16) = sext16 rel8 := by simp [branchDisplacement, eq_sext16_iff]
    _ ↔ branchTarget p0 rel8 = label := by rw [branchTarget, eq_comm, BitVec.eq_sub_iff_add_eq, BitVec.add_comm]

/-- Settles O29, by both directions of `branchDisplacement_eq_some_iff`. -/
theorem assembledBranchReachesLabel : Obligations.AssembledBranchReachesLabel :=
  ⟨fun p0 label rel8 => (branchDisplacement_eq_some_iff p0 label rel8).mp,
    fun p0 rel8 => (branchDisplacement_eq_some_iff p0 (branchTarget p0 rel8) rel8).mpr rfl⟩

end Sys2Proof.Machine
end

section
/-! PROOFS. The step cycle (spec/40_step_cycle.md R120 to R124): what the fetch reads and decodes, that a running machine
always has a step, which is the meaning of what it fetched, and which opcodes a stop belongs to. -/

namespace Sys2Proof.Machine

/-! ### The fetch -/

/-- An illegal opcode reads no operand. -/
theorem fetch_of_formatOf_none {s s0 : State} {op : Byte} (read : busRead s s.pc = (op, s0))
    (illegal : formatOf op = none) : fetch s = (.error (.illegalOpcode op), s0) := by
  simp [fetch, read, illegal, decode_of_formatOf_none]

theorem fetch_of_no_operand {s s0 : State} {op : Byte} {f : Format} (read : busRead s s.pc = (op, s0))
    (format : formatOf op = some f) (len : f.operandBytes = 0) : fetch s = (decode op 0#8 0#8, s0) := by
  simp [fetch, read, format, len]

theorem fetch_of_one_operand {s s0 s1 : State} {op b1 : Byte} {f : Format} (read : busRead s s.pc = (op, s0))
    (format : formatOf op = some f) (len : f.operandBytes = 1) (read1 : busRead s0 (s.pc + 1#16) = (b1, s1)) :
    fetch s = (decode op b1 0#8, s1) := by
  simp [fetch, read, format, len, read1]

theorem fetch_of_two_operands {s s0 s1 s2 : State} {op b1 b2 : Byte} {f : Format} (read : busRead s s.pc = (op, s0))
    (format : formatOf op = some f) (len : f.operandBytes = 2) (read1 : busRead s0 (s.pc + 1#16) = (b1, s1))
    (read2 : busRead s1 (s.pc + 2#16) = (b2, s2)) : fetch s = (decode op b1 b2, s2) := by
  simp [fetch, read, format, len, read1, read2]

/-- Settles O4: the format alone says how many operand bytes the fetch reads. -/
theorem fetchReadsOperandsInOrder : Obligations.FetchReadsOperandsInOrder := by
  intro s s0 op read
  refine ⟨fetch_of_formatOf_none read, fun imp => fetch_of_no_operand read imp rfl, ?_, ?_⟩
  · rintro (imm | rel) b1 s1 read1
    · exact fetch_of_one_operand read imm rfl read1
    · exact fetch_of_one_operand read rel rfl read1
  · rintro (abs | absx) b1 s1 b2 s2 read1 read2
    · exact fetch_of_two_operands read abs rfl read1 read2
    · exact fetch_of_two_operands read absx rfl read1 read2

/-- Where no device claims the three bytes at `pc`, the fetch decodes the bytes of the store there and changes nothing:
those the format lacks it does not read, and the decoder does not look at them. -/
theorem fetch_of_unclaimed {s : State} (h0 : s.deviceAt s.pc = none) (h1 : s.deviceAt (s.pc + 1#16) = none)
    (h2 : s.deviceAt (s.pc + 2#16) = none) :
    fetch s = (decode (s.mem.read s.pc) (s.mem.read (s.pc + 1#16)) (s.mem.read (s.pc + 2#16)), s) := by
  have read := busRead_of_unclaimed h0
  have read1 := busRead_of_unclaimed h1
  have read2 := busRead_of_unclaimed h2
  cases format : formatOf (s.mem.read s.pc) with
  | none => rw [fetch_of_formatOf_none read format, decode_of_formatOf_none _ _ format]
  | some f =>
    obtain ⟨noOperand, oneOperand⟩ :=
      decode_ignores_missing_operands format (s.mem.read (s.pc + 1#16)) (s.mem.read (s.pc + 2#16))
    cases f with
    | imp => rw [fetch_of_no_operand read format rfl, noOperand rfl]
    | imm | rel => rw [fetch_of_one_operand read format rfl read1, oneOperand rfl]
    | abs | absx => exact fetch_of_two_operands read format rfl read1 read2

/-- The byte read at `pc` is the opcode byte of what the fetch decodes, and announces its format. -/
theorem opcode_of_fetch_ok {s s0 s' : State} {op : Byte} {i : Instr} (read : busRead s s.pc = (op, s0))
    (h : fetch s = (.ok i, s')) : (encode i).head? = some op ∧ formatOf op = some i.format := by
  have fetched : (fetch s).1 = .ok i := by rw [h]
  have first := encode_head?_of_fetch fetched
  rw [read] at first
  refine ⟨first, ?_⟩
  rcases fetch_cases s with hf | ⟨r1, _, hf⟩ | ⟨r1, r2, _, _, hf⟩ <;> rw [hf, read] at fetched <;>
    exact formatOf_of_decode fetched

/-- What a fetch rejects is the byte read at `pc`, which announces no format. -/
theorem opcode_of_fetch_error {s s0 s' : State} {op : Byte} {e : DecodeError} (read : busRead s s.pc = (op, s0))
    (h : fetch s = (.error e, s')) : formatOf op = none ∧ e = .illegalOpcode op := by
  have rejected : (fetch s).1 = .error e := by rw [h]
  rcases fetch_cases s with hf | ⟨r1, _, hf⟩ | ⟨r1, r2, _, _, hf⟩ <;> rw [hf, read] at rejected <;>
    exact formatOf_of_decode_error rejected

/-! ### A running machine always has a step -/

/-- No instruction's meaning is a fault or a refusal (log 7): where a device fails a store, the stop is a next state. -/
theorem exec_next (i : Instr) (s : State) : ∃ t, exec i s = .next t := by
  cases i with
  | staAbs b =>
    cases hb : busWrite s b s.a with
    | stored s' => exact ⟨_, exec_staAbs_of_stored hb⟩
    | failed s' => exact ⟨_, exec_staAbs_of_failed hb⟩
  | halt | inx | iny | ldaImmediate _ | ldaAbsX _ | ldxImmediate _ | ldyImmediate _ | jmpAbs _ | cpx _ | cmp _ | bne _
  | beq _ => exact ⟨_, rfl⟩

theorem step_of_not_running {s : State} (h : s.runState ≠ .running) : step s = .refused .notRunning := by
  cases hr : s.runState with
  | running => exact absurd hr h
  | halted => exact step_of_halted hr
  | faulted cause => exact step_of_faulted hr

theorem step_next_of_running {s : State} (running : s.runState = .running) : ∃ t, step s = .next t := by
  obtain ⟨r, s', hf⟩ : ∃ r s', fetch s = (r, s') := ⟨_, _, rfl⟩
  cases r with
  | ok i =>
    by_cases hi : i = .halt
    · subst hi
      rw [step_of_fetch_halt running hf]
      exact exec_next _ _
    · rw [step_of_fetch_ok running hf hi]
      exact exec_next _ _
  | error e =>
    obtain ⟨op⟩ := e
    exact ⟨_, step_of_fetch_error running hf⟩

/-- Settles O7: whatever a running machine fetches, an instruction or an illegal opcode, has a next state. -/
theorem stoppedMachineHasNoStep : Obligations.StoppedMachineHasNoStep :=
  ⟨fun _ => step_of_not_running, fun _ => step_next_of_running⟩

/-- Settles O5: where no device claims the bytes at `pc` the fetch changes nothing, so that HALT needs no case of its
own there. -/
theorem stepRunsDecodedInstruction : Obligations.StepRunsDecodedInstruction := by
  refine ⟨fun _ _ _ => step_of_fetch_ok, fun _ _ => step_of_fetch_halt, fun s i running h0 h1 h2 decoded => ?_⟩
  exact step_of_fetch_same running (by rw [fetch_of_unclaimed h0 h1 h2, decoded])

/-! ### The opcodes a stop belongs to -/

/-- 0x00 is the opcode of HALT alone. -/
theorem encode_head?_eq_zero_iff (i : Instr) : (encode i).head? = some 0x00#8 ↔ i = .halt := by
  cases i <;> simp [encode]

/-- An instruction other than HALT leaves the latch; or it is a store whose device failed, and the stop records the
address and A. -/
theorem exec_latch {i : Instr} {s t : State} (hi : i ≠ .halt) (h : exec i s = .next t) :
    t.runState = s.runState ∨ ∃ b, i = .staAbs b ∧ t.runState = .faulted (.deviceIOFailure b s.a) := by
  cases i with
  | halt => exact absurd rfl hi
  | staAbs b =>
    obtain ⟨_, _, rfl | rfl⟩ := exec_staAbs_cases h
    · exact .inl rfl
    · exact .inr ⟨b, rfl, rfl⟩
  | ldaAbsX b => cases h; exact .inl (busRead_runState s _)
  | inx | iny | ldaImmediate _ | ldxImmediate _ | ldyImmediate _ | jmpAbs _ | cpx _ | cmp _ | bne _ | beq _ =>
    cases h; exact .inl rfl

/-- Settles O8, by what the step ran: an instruction other than HALT, which completes unless it is a store that fails;
HALT, whose opcode is 0x00; or an illegal opcode's stop. -/
theorem stepOutcomesBelongToOpcodes : Obligations.StepOutcomesBelongToOpcodes := by
  intro s s0 op running read
  obtain ⟨t, stepped⟩ := step_next_of_running running
  refine ⟨t, stepped, ?_⟩
  obtain ⟨_, ⟨i, s', hf, hi, he⟩ | ⟨s', hf, rfl⟩ | ⟨op', s', hf, rfl⟩⟩ := step_cases stepped
  · obtain ⟨opcode, legal⟩ := opcode_of_fetch_ok read hf
    have notHalt : op ≠ 0x00#8 := by
      rintro rfl
      exact hi ((encode_head?_eq_zero_iff i).mp opcode)
    have latch : s'.runState = .running := by simpa [hf, running] using fetch_runState s
    rcases exec_latch hi he with completed | ⟨b, rfl, failed⟩
    · simp [completed, latch, notHalt, legal]
    · have accumulator : s'.a = s.a := by simpa [hf] using fetch_a s
      obtain rfl : 0x8D#8 = op := Option.some.inj opcode
      simp [failed, accumulator, legal, hf]
  · obtain ⟨opcode, legal⟩ := opcode_of_fetch_ok read hf
    obtain rfl : 0x00#8 = op := Option.some.inj opcode
    simp [legal]
  · obtain ⟨illegal, named⟩ := opcode_of_fetch_error read hf
    obtain rfl : op' = op := DecodeError.illegalOpcode.inj named
    have notHalt : op' ≠ 0x00#8 := by rintro rfl; cases illegal
    simp [illegal, notHalt, eq_comm]

end Sys2Proof.Machine
end

section
/-! PROOFS. A run ends in one state at most (spec/40_step_cycle.md R132): the step is a function, and a machine that has
stopped has none. -/

namespace Sys2Proof.Machine

/-- A run ends, in HALTED or in FAULTED, where the machine no longer runs. -/
theorem haltsIn_or_faultsIn_iff (s t : State) :
    HaltsIn s t ∨ FaultsIn s t ↔ Steps s t ∧ t.runState ≠ .running := by
  cases h : t.runState <;> simp [HaltsIn, FaultsIn, h]

/-- A run from a machine that has stopped goes nowhere. -/
theorem Steps.eq_of_stopped {s t : State} (run : Steps s t) (stopped : s.runState ≠ .running) : t = s := by
  cases run with
  | refl => rfl
  | head first _ => exact absurd (step_cases first).1 stopped

/-- A state that a run passes through leads to the run's end: two runs take the same steps as far as the shorter goes,
and the one that ends is not the shorter. -/
theorem Steps.to_end {s t u : State} (passing : Steps s u) (ending : Steps s t) (stopped : t.runState ≠ .running) :
    Steps u t := by
  induction passing with
  | refl => exact ending
  | head first _ ih =>
    cases ending with
    | refl => exact absurd (step_cases first).1 stopped
    | head first' rest => exact ih (Host.Outcome.next.inj (first'.symm.trans first) ▸ rest)

/-- Settles O52: another end is a state that the run to the first end passes through, and it has stopped there. -/
theorem runEndsInOneState : Obligations.RunEndsInOneState := by
  intro s t ends
  obtain ⟨run, stopped⟩ := (haltsIn_or_faultsIn_iff s t).mp ends
  refine ⟨fun u ends' => ?_, fun u passing => passing.to_end run stopped, fun hangs => stopped (hangs t run), ?_⟩
  · obtain ⟨run', stopped'⟩ := (haltsIn_or_faultsIn_iff s u).mp ends'
    exact ((run'.to_end run stopped).eq_of_stopped stopped').symm
  · rintro ⟨⟨_, halted⟩, _, cause, faulted⟩
    rw [halted] at faulted
    cases faulted

end Sys2Proof.Machine
end

section
/-! PROOFS. HALT and the illegal opcode (spec/41_halt.md R140, R141): both are decoded from the opcode byte alone, and
the stop they raise writes the latch. -/

namespace Sys2Proof.Machine

/-- A bus read changes nothing but the devices, said of a read already named. -/
theorem busRead_eq_state {s s0 : State} {a : Address} {v : Byte} (read : busRead s a = (v, s0)) :
    s0 = { s with devices := s0.devices } := by
  simpa [read] using busRead_state s a

/-! ### HALT -/

/-- HALT reads no operand. -/
theorem fetch_of_halt_byte {s s0 : State} (read : busRead s s.pc = (0x00#8, s0)) : fetch s = (.ok .halt, s0) :=
  fetch_of_no_operand read (f := .imp) rfl rfl

/-- A running machine that reads the HALT byte at `pc` halts in the state the read leaves or in the one before it
(log 12). -/
theorem step_of_halt_byte {s s0 : State} (running : s.runState = .running) (read : busRead s s.pc = (0x00#8, s0)) :
    step s = .next ((if Config.haltKeepsFetch = true then s0 else s).raise .halt) :=
  step_of_fetch_halt running (fetch_of_halt_byte read)

/-- Settles O11: where the read changes nothing, the two states of log 12 are one. -/
theorem haltRule : Obligations.HaltRule := by
  refine ⟨rfl, exec_halt, fun s running read => ⟨?_, step_of_halted rfl⟩⟩
  rw [step_of_halt_byte running read, ite_self]
  rfl

/-- Settles O56, by the two values of log 12: the opcode read is the one access that may have changed a device. -/
theorem haltStepAfterAnyFetch : Obligations.HaltStepAfterAnyFetch := by
  intro s s0 running read
  have fetched := busRead_eq_state read
  refine ⟨fetched, _, step_of_halt_byte running read, ?_, step_of_halted rfl⟩
  by_cases keeps : Config.haltKeepsFetch = true
  · rw [if_pos keeps, if_pos keeps, fetched]
    rfl
  · rw [if_neg keeps, if_neg keeps]
    rfl

/-! ### The illegal opcode -/

/-- Settles O12: a byte that is none of the thirteen announces no format, so the fetch reads no operand and rejects it
by name; the stop is raised in the state that the opcode read leaves. -/
theorem illegalOpcodeRule : Obligations.IllegalOpcodeRule := by
  intro s s0 op running read illegal
  have rejected := fetch_of_formatOf_none read ((formatOf_eq_none_iff op).mpr illegal)
  exact ⟨step_of_fetch_error running rejected, step_of_faulted rfl⟩

end Sys2Proof.Machine
end

section
/-! PROOFS. INX and INY (spec/42_increment.md R145, R146): an instruction that is its opcode byte alone runs in the state
the opcode read leaves, whose registers are those before it. -/

namespace Sys2Proof.Machine

/-- A running machine that reads the opcode of an implied instruction other than HALT runs it in the state that read
leaves: there is no operand to read. -/
theorem step_of_implied {s s0 : State} {op : Byte} {i : Instr} (running : s.runState = .running)
    (read : busRead s s.pc = (op, s0)) (format : formatOf op = some .imp) (decoded : decode op 0#8 0#8 = .ok i)
    (notHalt : i ≠ .halt) : step s = exec i s0 := by
  have fetched : fetch s = (.ok i, s0) := by rw [fetch_of_no_operand read format rfl, decoded]
  exact step_of_fetch_ok running fetched notHalt

/-- Adding one to a register is the sum of the spec, taken modulo 256: 0xFF gives 0x00. -/
theorem byte_add_one_eq_ofNat (v : Byte) : v + 1#8 = BitVec.ofNat 8 (v.toNat + 1) := by
  rw [BitVec.ofNat_add, BitVec.ofNat_toNat, BitVec.setWidth_eq]

theorem exec_inx_eq_ofNat (s : State) :
    exec .inx s = .next { s with x := BitVec.ofNat 8 (s.x.toNat + 1), pc := s.pc + 1#16 } := by
  rw [exec_inx, byte_add_one_eq_ofNat]
  rfl

theorem exec_iny_eq_ofNat (s : State) :
    exec .iny s = .next { s with y := BitVec.ofNat 8 (s.y.toNat + 1), pc := s.pc + 1#16 } := by
  rw [exec_iny, byte_add_one_eq_ofNat]
  rfl

/-- Settles O14: the opcode read leaves X and `pc`, so the step adds one to the X and the `pc` before it. -/
theorem inxRule : Obligations.InxRule := by
  refine ⟨rfl, exec_inx_eq_ofNat, fun s s0 running read => ?_⟩
  have x_kept : s0.x = s.x := by simpa [read] using busRead_x s s.pc
  have pc_kept : s0.pc = s.pc := by simpa [read] using busRead_pc s s.pc
  rw [step_of_implied running read rfl rfl (by simp), exec_inx_eq_ofNat, x_kept, pc_kept]

/-- Settles O15: the opcode read leaves Y and `pc`, so the step adds one to the Y and the `pc` before it. -/
theorem inyRule : Obligations.InyRule := by
  refine ⟨rfl, exec_iny_eq_ofNat, fun s s0 running read => ?_⟩
  have y_kept : s0.y = s.y := by simpa [read] using busRead_y s s.pc
  have pc_kept : s0.pc = s.pc := by simpa [read] using busRead_pc s s.pc
  rw [step_of_implied running read rfl rfl (by simp), exec_iny_eq_ofNat, y_kept, pc_kept]

end Sys2Proof.Machine
end

section
/-! PROOFS. The loads and the store (spec/43_load_store.md R150 to R154): an instruction with operand bytes runs in the
state its last operand read leaves, whose registers are those before the fetch, and what the store does is what its bus
write does. -/

namespace Sys2Proof

/-- The address that two operand bytes form, as the arithmetic of spec/00_scope.md R8, is encoded as the same two. -/
theorem lowByte_highByte_ofNat (low high : Byte) :
    [lowByte (BitVec.ofNat 16 (high.toNat * 256 + low.toNat)),
      highByte (BitVec.ofNat 16 (high.toNat * 256 + low.toNat))] = [low, high] := by
  rw [← littleEndian_eq_ofNat, lowByte_highByte_littleEndian]

end Sys2Proof

namespace Sys2Proof.Machine

/-! ### The step of an instruction with operand bytes -/

/-- A bus read leaves `pc`, said of a read already named. -/
theorem busRead_eq_pc {s s0 : State} {a : Address} {v : Byte} (read : busRead s a = (v, s0)) : s0.pc = s.pc := by
  simpa [read] using busRead_pc s a

/-- A bus read leaves X, said of a read already named. -/
theorem busRead_eq_x {s s0 : State} {a : Address} {v : Byte} (read : busRead s a = (v, s0)) : s0.x = s.x := by
  simpa [read] using busRead_x s a

/-- An instruction that has operand bytes is not HALT. -/
theorem ne_halt_of_operandBytes {i : Instr} {n : Nat} (len : i.format.operandBytes = n + 1) : i ≠ .halt := by
  rintro rfl
  cases len

/-- A running machine whose opcode byte and one operand byte decode to an instruction of that length runs it in the
state that the operand read leaves. -/
theorem step_of_one_operand {s s0 s1 : State} {op b1 : Byte} {i : Instr} (running : s.runState = .running)
    (read : busRead s s.pc = (op, s0)) (read1 : busRead s0 (s.pc + 1#16) = (b1, s1))
    (decoded : decode op b1 0#8 = .ok i) (len : i.format.operandBytes = 1) : step s = exec i s1 := by
  have fetched : fetch s = (.ok i, s1) := by
    rw [fetch_of_one_operand read (formatOf_of_decode decoded) len read1, decoded]
  exact step_of_fetch_ok running fetched (ne_halt_of_operandBytes len)

/-- A running machine whose opcode byte and two operand bytes decode to an instruction of that length runs it in the
state that the second operand read leaves. -/
theorem step_of_two_operands {s s0 s1 s2 : State} {op b1 b2 : Byte} {i : Instr} (running : s.runState = .running)
    (read : busRead s s.pc = (op, s0)) (read1 : busRead s0 (s.pc + 1#16) = (b1, s1))
    (read2 : busRead s1 (s.pc + 2#16) = (b2, s2)) (decoded : decode op b1 b2 = .ok i)
    (len : i.format.operandBytes = 2) : step s = exec i s2 := by
  have fetched : fetch s = (.ok i, s2) := by
    rw [fetch_of_two_operands read (formatOf_of_decode decoded) len read1 read2, decoded]
  exact step_of_fetch_ok running fetched (ne_halt_of_operandBytes len)

/-! ### The store -/

/-- Settles O21, by the two ends of a store: the byte is written and `pc` moves, or the machine is FAULTED. -/
theorem storeFrame : Obligations.StoreFrame := by
  intro addr16 s t wf h
  have cells := Memory.read_write wf addr16
  obtain ⟨ds, _, rfl | rfl⟩ := exec_staAbs_cases h
  · refine ⟨rfl, rfl, rfl, rfl, rfl, rfl, fun b ne => ?_, .inl ⟨rfl, rfl, ?_⟩⟩
    · exact (cells b s.a).trans (if_neg ne)
    · exact (cells addr16 s.a).trans (if_pos rfl)
  · exact ⟨rfl, rfl, rfl, rfl, rfl, rfl, fun _ _ => rfl, .inr ⟨rfl, rfl, rfl⟩⟩

/-- The sink claims its one address and no other. -/
theorem Device.claims_charOut_iff (out : List Byte) (n : Nat) (a : Address) :
    (Device.charOut out n).claims a = true ↔ a = Config.sinkRange.first := by
  rw [Device.claims_eq_contains, AddressRange.contains_iff, ← BitVec.toNat_inj]
  exact ⟨fun ⟨low, high⟩ => Nat.le_antisymm high low, fun same => ⟨same.ge, same.le⟩⟩

theorem exec_staAbs_of_unclaimed {b : Address} {s : State} (h : s.deviceAt b = none) :
    exec (.staAbs b) s = .next { s with mem := s.mem.write b s.a, pc := s.pc + 3#16 } :=
  exec_staAbs_of_stored (busWrite_of_unclaimed s.a h)

/-- Where the hook of the device at the address does not fail, the store completes, whether or not it was handled. -/
theorem exec_staAbs_of_done {b : Address} {s : State} {k : Nat} {d d' : Device} {handled : Bool}
    (h : s.deviceAt b = some (k, d)) (hook : d.write s.sinkFails b s.a = .done d' handled) :
    exec (.staAbs b) s =
      .next { s with mem := s.mem.write b s.a, devices := s.devices.set k d', pc := s.pc + 3#16 } :=
  exec_staAbs_of_stored (busWrite_of_done h hook)

/-- Where the hook of the device at the address fails, the machine stops with the device as the hook leaves it. -/
theorem exec_staAbs_of_ioFailure {b : Address} {s : State} {k : Nat} {d d' : Device}
    (h : s.deviceAt b = some (k, d)) (hook : d.write s.sinkFails b s.a = .ioFailure d') :
    exec (.staAbs b) s =
      .next { s with runState := .faulted (.deviceIOFailure b s.a), devices := s.devices.set k d' } :=
  exec_staAbs_of_failed (busWrite_of_ioFailure h hook)

/-- A store to the sink: a write ordinal that SINK_FAILS lists fails and leaves the sink, any other emits A. -/
theorem exec_staAbs_of_charOut {b : Address} {s : State} {k : Nat} {out : List Byte} {n : Nat}
    (h : s.deviceAt b = some (k, .charOut out n)) :
    exec (.staAbs b) s =
      if n ∈ s.sinkFails then .next { s with runState := .faulted (.deviceIOFailure b s.a) }
      else .next { s with
        mem := s.mem.write b s.a
        devices := s.devices.set k (.charOut (out ++ [s.a]) (n + 1))
        pc := s.pc + 3#16 } := by
  obtain ⟨registered, claimed⟩ := State.deviceAt_some h
  rcases Device.write_charOut s.sinkFails out n b s.a with
    ⟨elsewhere, _⟩ | ⟨_, listed, hook⟩ | ⟨_, unlisted, hook⟩
  · exact absurd ((Device.claims_charOut_iff out n b).mp claimed) elsewhere
  · have failed := busWrite_of_ioFailure h hook
    rw [State.setDevice_self registered] at failed
    rw [if_pos listed, exec_staAbs_of_failed failed]
    rfl
  · rw [if_neg unlisted, exec_staAbs_of_done h hook]

/-- A store to another device: its hook's state is kept whether it failed or not. -/
theorem exec_staAbs_of_custom {b : Address} {s : State} {k id : Nat} {range : AddressRange} {data : Nat}
    (h : s.deviceAt b = some (k, .custom id range data)) :
    exec (.staAbs b) s =
      if (Config.customWrite id data b s.a).2 = none then
        .next { s with
          runState := .faulted (.deviceIOFailure b s.a)
          devices := s.devices.set k (.custom id range (Config.customWrite id data b s.a).1) }
      else .next { s with
        mem := s.mem.write b s.a
        devices := s.devices.set k (.custom id range (Config.customWrite id data b s.a).1)
        pc := s.pc + 3#16 } := by
  cases answer : (Config.customWrite id data b s.a).2 with
  | none => exact exec_staAbs_of_ioFailure h (by simp [Device.write, answer])
  | some handled => exact exec_staAbs_of_done h (handled := handled) (by simp [Device.write, answer])

/-- Settles O20, by who claims the address; the step stores to the address its two operand bytes form. -/
theorem staAbsRule : Obligations.StaAbsRule := by
  refine ⟨fun lo hi => congrArg (List.cons _) (lowByte_highByte_ofNat lo hi), fun _ _ => exec_staAbs_of_unclaimed,
    fun _ _ _ _ _ => exec_staAbs_of_charOut, fun _ _ _ _ _ _ => exec_staAbs_of_custom,
    fun s s0 s1 s2 lo hi running read read1 read2 => ?_⟩
  rw [← littleEndian_eq_ofNat]
  exact step_of_two_operands running read read1 read2 rfl rfl

/-! ### The loads of a constant -/

theorem State.setReg_pc (s : State) (r : Reg) (v : Byte) : (s.setReg r v).pc = s.pc := by
  cases r <;> rfl

/-- A running machine that reads the opcode of a load of a constant and then the constant: the two reads leave `pc`, so
that the step moves the `pc` before it by two. -/
theorem step_of_loadImmediate {s s0 s1 : State} {op imm8 : Byte} {i : Instr} {r : Reg} (running : s.runState = .running)
    (read : busRead s s.pc = (op, s0)) (read1 : busRead s0 (s.pc + 1#16) = (imm8, s1))
    (decoded : decode op imm8 0#8 = .ok i) (len : i.format.operandBytes = 1)
    (meaning : ∀ u, exec i u = .next ((u.setReg r imm8).advance 2#16)) :
    step s = .next ((s1.setReg r imm8).setPc (s.pc + 2#16)) := by
  have pc_kept : s1.pc = s.pc := by rw [busRead_eq_pc read1, busRead_eq_pc read]
  rw [step_of_one_operand running read read1 decoded len, meaning, State.advance, State.setReg_pc, pc_kept]

/-- Settles O16: `step_of_loadImmediate` for A. -/
theorem ldaImmediateRule : Obligations.LdaImmediateRule :=
  ⟨fun _ => rfl, exec_ldaImmediate, fun _ _ _ imm8 running read read1 =>
    step_of_loadImmediate running read read1 rfl rfl (exec_ldaImmediate imm8)⟩

/-- Settles O18: `step_of_loadImmediate` for X. -/
theorem ldxImmediateRule : Obligations.LdxImmediateRule :=
  ⟨fun _ => rfl, exec_ldxImmediate, fun _ _ _ imm8 running read read1 =>
    step_of_loadImmediate running read read1 rfl rfl (exec_ldxImmediate imm8)⟩

/-- Settles O19: `step_of_loadImmediate` for Y. -/
theorem ldyImmediateRule : Obligations.LdyImmediateRule :=
  ⟨fun _ => rfl, exec_ldyImmediate, fun _ _ _ imm8 running read read1 =>
    step_of_loadImmediate running read read1 rfl rfl (exec_ldyImmediate imm8)⟩

/-! ### The indexed load -/

/-- The effective address is the unsigned sum of the spec, taken modulo 65536. -/
theorem indexedAddress_eq_ofNat (s : State) (addr16 : Address) :
    indexedAddress s addr16 = BitVec.ofNat 16 (addr16.toNat + s.x.toNat) := by
  rw [BitVec.ofNat_add, BitVec.ofNat_toNat, BitVec.ofNat_toNat, BitVec.setWidth_eq]
  rfl

/-- The indexed load, said of the read at its effective address already named. -/
theorem exec_ldaAbsX_of_read {s s' : State} {addr16 : Address} {v : Byte}
    (read : busRead s (BitVec.ofNat 16 (addr16.toNat + s.x.toNat)) = (v, s')) :
    exec (.ldaAbsX addr16) s = .next { s' with a := v, pc := s.pc + 3#16 } := by
  rw [exec_ldaAbsX, indexedAddress_eq_ofNat, read, ← busRead_eq_pc read]
  rfl

/-- Settles O17: the three fetch reads leave X and `pc`, so the step's data read is at the sum of its operand and the X
before it. -/
theorem ldaAbsXRule : Obligations.LdaAbsXRule := by
  refine ⟨fun lo hi => congrArg (List.cons _) (lowByte_highByte_ofNat lo hi), fun _ _ => exec_ldaAbsX_of_read rfl,
    fun s s0 s1 s2 s3 lo hi v running read read1 read2 readData => ?_⟩
  have pc_kept : s2.pc = s.pc := by rw [busRead_eq_pc read2, busRead_eq_pc read1, busRead_eq_pc read]
  have x_kept : s2.x = s.x := by rw [busRead_eq_x read2, busRead_eq_x read1, busRead_eq_x read]
  rw [← littleEndian_toNat, ← x_kept] at readData
  rw [step_of_two_operands running read read1 read2 rfl rfl, exec_ldaAbsX_of_read readData, pc_kept]

end Sys2Proof.Machine
end

section
/-! PROOFS. The jump (spec/44_jump.md R160): the step ends at the address that its two operand bytes form, in the state
the second operand read leaves. -/

namespace Sys2Proof.Machine

/-- Settles O22: nothing is added to the target, so the step's `pc` is the operand whatever the `pc` before it. -/
theorem jmpAbsRule : Obligations.JmpAbsRule := by
  refine ⟨fun lo hi => congrArg (List.cons _) (lowByte_highByte_ofNat lo hi), exec_jmpAbs,
    fun s s0 s1 s2 lo hi running read read1 read2 => ?_⟩
  have ran : step s = exec (.jmpAbs (littleEndian lo hi)) s2 :=
    step_of_two_operands running read read1 read2 rfl rfl
  rw [ran, exec_jmpAbs, littleEndian_eq_ofNat, State.setPc]

end Sys2Proof.Machine
end

section
/-! PROOFS. The comparisons (spec/45_compare.md R165 to R167): the unsigned order of the operands decides the flags, and
CPX and CMP are one comparison, of X and of A. -/

namespace Sys2Proof.Machine

/-! ### The comparison -/

theorem Status.compare_of_lt (p : Status) {a b : Byte} (lt : a < b) :
    p.compare a b = { p with zero := false, carry := false } :=
  if_pos lt

theorem Status.compare_of_gt (p : Status) {a b : Byte} (gt : b < a) :
    p.compare a b = { p with zero := false, carry := true } :=
  (if_neg (BitVec.lt_asymm gt)).trans (if_pos gt)

theorem Status.compare_self (p : Status) (a : Byte) :
    p.compare a a = { p with zero := true, carry := true, negative := false } :=
  (if_neg (BitVec.lt_irrefl a)).trans (if_neg (BitVec.lt_irrefl a))

/-- Settles O23: the order of two bytes is that of their values, and bytes of one value are one byte. -/
theorem compareThreeCases : Obligations.CompareThreeCases := by
  refine fun p a b => ⟨p.compare_of_lt, p.compare_of_gt, fun same => ?_⟩
  rw [BitVec.eq_of_toNat_eq same, p.compare_self]

/-- The flags as R166 and R167 list them, by the three cases: Zero and Carry are written always, and Negative is lost
only at equality. -/
theorem Status.compare_eq_decide_toNat (p : Status) (a b : Byte) :
    p.compare a b = { p with
      zero := decide (a.toNat = b.toNat)
      carry := decide (b.toNat ≤ a.toNat)
      negative := p.negative && decide (a.toNat ≠ b.toNat) } := by
  obtain ⟨less, greater, equal⟩ := compareThreeCases p a b
  rcases lt_trichotomy a.toNat b.toNat with lt | same | gt
  · rw [less lt]
    simp [lt.ne, lt.not_ge]
  · rw [equal same]
    simp [same]
  · rw [greater gt]
    simp [gt.ne', gt.le]

/-! ### CPX and CMP -/

/-- An instruction that compares a register with a constant writes the three flags and `pc`, and nothing else. -/
theorem exec_of_compareReg {i : Instr} {s : State} {r : Reg} {imm8 : Byte}
    (meaning : exec i s = .next ((s.compareReg r imm8).advance 2#16)) :
    exec i s = .next { s with
      status := { s.status with
        zero := decide ((s.reg r).toNat = imm8.toNat)
        carry := decide (imm8.toNat ≤ (s.reg r).toNat)
        negative := s.status.negative && decide ((s.reg r).toNat ≠ imm8.toNat) }
      pc := s.pc + 2#16 } := by
  rw [meaning, State.compareReg, Status.compare_eq_decide_toNat]
  rfl

/-- Settles O24: `exec_of_compareReg` for X, run in the state that the operand read leaves. -/
theorem cpxRule : Obligations.CpxRule :=
  ⟨fun _ => rfl, fun imm8 s => exec_of_compareReg (exec_cpx imm8 s), fun _ _ _ _ running read read1 =>
    step_of_one_operand running read read1 rfl rfl⟩

/-- Settles O25: `exec_of_compareReg` for A, run in the state that the operand read leaves. -/
theorem cmpRule : Obligations.CmpRule :=
  ⟨fun _ => rfl, fun imm8 s => exec_of_compareReg (exec_cmp imm8 s), fun _ _ _ _ running read read1 =>
    step_of_one_operand running read read1 rfl rfl⟩

end Sys2Proof.Machine
end

section
/-! PROOFS. The branches (spec/46_branch.md R170 to R172): the target is a signed sum modulo 65536, and BNE and BEQ are
one conditional write of `pc`, on the Zero flag clear and on it set. -/

namespace Sys2Proof.Machine

/-! ### The branch target -/

/-- The 16-bit sum of the model is the integer sum of the spec, taken modulo 65536, since sign extension keeps the
signed value of the displacement. -/
theorem branchTarget_eq_ofInt (p0 : Address) (rel8 : Byte) :
    branchTarget p0 rel8 = BitVec.ofInt 16 (p0.toNat + 2 + rel8.toInt) := by
  have displacement : BitVec.ofInt 16 rel8.toInt = sext16 rel8 := by rw [← sext16_toInt, BitVec.ofInt_toInt]
  have base : BitVec.ofInt 16 p0.toNat = p0 := by rw [BitVec.ofInt_natCast, BitVec.ofNat_toNat, BitVec.setWidth_eq]
  rw [BitVec.ofInt_add, BitVec.ofInt_add, displacement, base]
  rfl

/-- `rel8 = 0x80` reaches 126 bytes back: `2 - 128 = -126` modulo 65536. -/
theorem branchTarget_least (p0 : Address) : branchTarget p0 0x80#8 = p0 - 126#16 := by
  have offset : 2#16 + sext16 0x80#8 = -126#16 := by decide
  rw [branchTarget, BitVec.add_assoc, offset, BitVec.sub_eq_add_neg]

/-- `rel8 = 0x7F` reaches 129 bytes on: `2 + 127 = 129`. -/
theorem branchTarget_greatest (p0 : Address) : branchTarget p0 0x7F#8 = p0 + 129#16 := by
  have offset : 2#16 + sext16 0x7F#8 = 129#16 := by decide
  rw [branchTarget, BitVec.add_assoc, offset]

/-- Settles O26, by the signed sum for every displacement and its two ends. -/
theorem branchTargetRule : Obligations.BranchTargetRule :=
  ⟨branchTarget_eq_ofInt, fun p0 => ⟨branchTarget_least p0, branchTarget_greatest p0⟩⟩

/-! ### BNE and BEQ -/

/-- An instruction that branches when `taken` writes `pc`, and nothing else. -/
theorem exec_of_branch {i : Instr} {s : State} {taken : Bool} {rel8 : Byte}
    (meaning : exec i s = .next (s.setPc (if taken then branchTarget s.pc rel8 else s.pc + 2#16))) :
    exec i s = .next { s with
      pc := if taken then BitVec.ofInt 16 (s.pc.toNat + 2 + rel8.toInt) else s.pc + 2#16 } := by
  rw [meaning, branchTarget_eq_ofInt, State.setPc]

/-- Settles O27: `exec_of_branch` on Zero clear, run in the state that the operand read leaves. -/
theorem bneRule : Obligations.BneRule := by
  refine ⟨fun _ => rfl, fun rel8 s => ?_, fun _ _ _ _ running read read1 =>
    step_of_one_operand running read read1 rfl rfl⟩
  simpa only [Bool.not_eq_true'] using exec_of_branch (exec_bne rel8 s)

/-- Settles O28: `exec_of_branch` on Zero set, run in the state that the operand read leaves. -/
theorem beqRule : Obligations.BeqRule :=
  ⟨fun _ => rfl, fun rel8 s => exec_of_branch (exec_beq rel8 s), fun _ _ _ _ running read read1 =>
    step_of_one_operand running read read1 rfl rfl⟩

end Sys2Proof.Machine
end

section
/-! PROOFS. The machine that Construct and the boot sequence leave (spec/70_reset_and_hazards.md R230, R233, R236), and
what the host may then do with it (R235, R238, R240). -/

namespace Sys2Proof

/-- `v[7:0]` as arithmetic (spec/00_scope.md R8). -/
theorem lowByte_eq_ofNat (v : Address) : lowByte v = BitVec.ofNat 8 v.toNat := by
  apply BitVec.eq_of_toNat_eq
  rw [lowByte_toNat, BitVec.toNat_ofNat]

/-- `v[15:8]` as arithmetic (spec/00_scope.md R8). -/
theorem highByte_eq_ofNat (v : Address) : highByte v = BitVec.ofNat 8 (v.toNat / 256) := by
  apply BitVec.eq_of_toNat_eq
  have bound := v.isLt
  rw [highByte_toNat, BitVec.toNat_ofNat]
  omega

end Sys2Proof

namespace Sys2Proof.Machine

/-! ### Construct -/

/-- The machine that Construct leaves when it accepts the launch (`construct_eq_next_iff`). -/
def constructed (l : Launch) : State := resetMachine (setResetVector (allocate l) l.resetVector)

theorem construct_of_wf {l : Launch} (wf : l.wf = true) : construct l = .next (constructed l) :=
  if_pos wf

theorem construct_eq_next_iff (l : Launch) (s : State) :
    construct l = .next s ↔ l.wf = true ∧ s = constructed l := by
  cases wf : l.wf <;> simp [construct, constructed, wf, eq_comm]

theorem constructed_runState (l : Launch) : (constructed l).runState = .running := rfl

theorem constructed_devices (l : Launch) : (constructed l).devices = l.devices.map DeviceSpec.initial := rfl

theorem constructed_mem_wf (l : Launch) : (constructed l).mem.wf = true :=
  setResetVector_mem_wf (s := allocate l) rfl l.resetVector

/-- The store after Construct, cell by cell: the two bytes of the vector in an empty store. -/
theorem constructed_read (l : Launch) (a : Address) :
    (constructed l).mem.read a =
      if a = 0xFFFD#16 then highByte l.resetVector else if a = 0xFFFC#16 then lowByte l.resetVector else 0x00#8 := by
  have empty : Memory.wf [] = true := rfl
  calc (constructed l).mem.read a
      = ((Memory.write [] 0xFFFC#16 (lowByte l.resetVector)).write 0xFFFD#16 (highByte l.resetVector)).read a := rfl
    _ = _ := by rw [Memory.read_write (Memory.write_wf empty _ _), Memory.read_write empty]; rfl

theorem constructed_read_low (l : Launch) : (constructed l).mem.read 0xFFFC#16 = lowByte l.resetVector :=
  (constructed_read l _).trans (if_neg (by decide))

theorem constructed_read_high (l : Launch) : (constructed l).mem.read 0xFFFD#16 = highByte l.resetVector :=
  constructed_read l _

/-- The reset that ends Construct reads back the vector that Construct wrote. -/
theorem constructed_pc (l : Launch) : (constructed l).pc = l.resetVector := by
  calc (constructed l).pc
      = littleEndian ((constructed l).mem.read 0xFFFC#16) ((constructed l).mem.read 0xFFFD#16) := rfl
    _ = l.resetVector := by rw [constructed_read_low, constructed_read_high, littleEndian_low_high]

/-- Settles O45: the refusal of ill-formed devices, and then each field of `constructed`. -/
theorem constructedState : Obligations.ConstructedState := by
  refine ⟨fun l illFormed => (construct_refused_iff l).mpr (by simp [Launch.wf, illFormed]), fun l wf => ?_⟩
  have flagsApart : l.flagBits.wf = true := (Bool.and_eq_true_iff.mp wf).2
  refine ⟨constructed l, construct_of_wf wf, constructed_pc l, rfl, rfl, rfl, rfl, rfl,
    Status.toByte_ofByte flagsApart l.initP, rfl, rfl, ?_, ?_, fun a notLow notHigh => ?_⟩
  · rw [constructed_read_low, lowByte_eq_ofNat]
  · rw [constructed_read_high, highByte_eq_ofNat]
  · rw [constructed_read, if_neg notHigh, if_neg notLow]

/-! ### The boot sequence -/

theorem loadRom_of_le {a : Address} {bytes : List Byte} (s : State) (bound : a.toNat + bytes.length ≤ 65536) :
    loadRom a bytes s = .next { s with mem := s.mem.load a bytes } :=
  if_neg (Nat.not_lt.mpr bound)

/-- The boot sequence of an accepted launch is the load of its image into the machine that Construct leaves. -/
theorem boot_of_wf {l : Launch} (wf : l.wf = true) : boot l = loadRom l.romBase l.rom (constructed l) := by
  rw [boot, construct_of_wf wf]

/-- A launch that boots was accepted, and its image changed the store and nothing else. -/
theorem boot_next {l : Launch} {s : State} (h : boot l = .next s) :
    s = { constructed l with mem := (constructed l).mem.load l.romBase l.rom } := by
  cases wf : l.wf with
  | true => exact loadRom_next (boot_of_wf wf ▸ h)
  | false => rw [boot, (construct_refused_iff l).mpr wf] at h; cases h

/-- Settles O46: the load leaves all that Construct left but the cells of the image. -/
theorem bootedState : Obligations.BootedState := by
  intro l wf bound
  refine ⟨_, (boot_of_wf wf).trans (loadRom_of_le _ bound), constructed_pc l, rfl, rfl, fun i b image => ?_⟩
  exact Memory.read_load_inside (constructed_mem_wf l) bound image

/-- Settles O50: the reference launch is fixed, and its image is empty. -/
theorem resetStateIsReferenceLaunch : Obligations.ResetStateIsReferenceLaunch :=
  ⟨rfl, rfl⟩

/-- After Construct, with or without an image loaded, the machine runs at the vector's value. -/
theorem runs_at_resetVector {l : Launch} {s : State} (h : construct l = .next s ∨ boot l = .next s) :
    s.runState = .running ∧ s.pc = l.resetVector := by
  rcases h with constructs | boots
  · obtain ⟨_, rfl⟩ := (construct_eq_next_iff l s).mp constructs
    exact ⟨constructed_runState l, constructed_pc l⟩
  · obtain rfl := boot_next boots
    exact ⟨constructed_runState l, constructed_pc l⟩

/-- Settles O48: the vector's value is no part of what makes a launch well formed; the rest is what a running machine's
step does at its `pc`. -/
theorem firstFetchIsAtResetVector : Obligations.FirstFetchIsAtResetVector := by
  constructor
  · intro l rv wf
    exact ⟨_, construct_of_wf (l := { l with resetVector := rv }) wf, constructed_pc _⟩
  · intro l s launched
    obtain ⟨running, atVector⟩ := runs_at_resetVector launched
    rw [← atVector]
    refine ⟨running, rfl, stepAccesses_head? s, step_next_of_running running, fun i s' fetched => ⟨?_, ?_, ?_⟩,
      fun op s' rejected => ⟨?_, step_of_fetch_error running rejected⟩, fun i h0 h1 h2 decoded => ?_⟩
    · exact (opcode_of_fetch_ok rfl fetched).1
    · exact step_of_fetch_ok running fetched
    · rintro rfl
      exact step_of_fetch_halt running fetched
    · exact DecodeError.illegalOpcode.inj (opcode_of_fetch_error rfl rejected).2
    · exact step_of_fetch_same running (by rw [fetch_of_unclaimed h0 h1 h2, decoded])

/-! ### Reset, Step and the invariant -/

/-- Settles O49: the vector's two bytes as the arithmetic of spec/00_scope.md R8. -/
theorem resetRule : Obligations.ResetRule := by
  intro s
  rw [← littleEndian_eq_ofNat]
  rfl

/-- The host is told what the latch says. -/
theorem hostStep_of_next {s t : State} (h : step s = .next t) : hostStep s = .next (reportOf t.runState, t) := by
  rw [hostStep, h]

/-- Settles O51: `hostStep_of_next` at each value of the latch, and the refusal of a step. -/
theorem hostStepReports : Obligations.HostStepReports := by
  refine ⟨fun s t stepped => ?_, fun s stopped => by rw [hostStep, step_of_not_running stopped]⟩
  rw [hostStep_of_next stepped]
  exact ⟨fun latch => by rw [latch]; rfl, fun latch => by rw [latch]; rfl, fun _ latch => by rw [latch]; rfl⟩

/-- A device starts well formed: the sink with nothing emitted, any other with the range it was given. -/
theorem DeviceSpec.initial_wf {d : DeviceSpec} (wf : d.range.wf = true) :
    (DeviceSpec.initial d).wf = true := by
  cases d with
  | charOut => rfl
  | custom id range init => exact wf

theorem constructed_inv {l : Launch} (wf : l.wf = true) : (constructed l).Inv := by
  have ranges : ∀ d ∈ l.devices, d.range.wf = true := List.all_eq_true.mp (Bool.and_eq_true_iff.mp wf).1
  refine ⟨constructed_mem_wf l, ?_⟩
  rw [constructed_devices, List.all_map, List.all_eq_true]
  exact fun d listed => DeviceSpec.initial_wf (ranges d listed)

/-- Settles O55: a load writes cells and a reset neither a cell nor a device; a step keeps the invariant by O54. -/
theorem hostKeepsInv : Obligations.HostKeepsInv := by
  refine ⟨fun l s h => ?_, fun c s t ⟨memWf, devicesWf⟩ h => ?_⟩
  · obtain ⟨wf, rfl⟩ := (construct_eq_next_iff l s).mp h
    exact constructed_inv wf
  · cases c with
    | loadRom a bytes => rw [loadRom_next h]; exact ⟨Memory.load_wf memWf a bytes, devicesWf⟩
    | reset => cases h; exact ⟨memWf, devicesWf⟩
    | step => exact stepKeepsInv s t ⟨memWf, devicesWf⟩ h

end Sys2Proof.Machine
end

section
/-! PROOFS. Stops, the character sink and the placing of a word (spec/60_exceptions.md R207, R214;
spec/70_reset_and_hazards.md R233). -/

namespace Sys2Proof.Machine

/-! ### A stop is precise -/

/-- An instruction that stops a running machine changes the latch and the devices alone: HALT, or a store whose device
failed. -/
theorem exec_stop_state {i : Instr} {s t : State} (running : s.runState = .running) (h : exec i s = .next t)
    (stopped : t.runState ≠ .running) : t = { s with runState := t.runState, devices := t.devices } := by
  by_cases hi : i = .halt
  · subst hi
    cases h
    rfl
  · rcases exec_latch hi h with completed | ⟨b, rfl, _⟩
    · exact absurd (completed.trans running) stopped
    · obtain ⟨_, _, rfl | rfl⟩ := exec_staAbs_cases h
      · exact absurd running stopped
      · rfl

/-- A step that stops changes the latch and the devices alone: its fetch changes no more than devices, and so does what
it runs then. -/
theorem step_stop_state {s t : State} (h : step s = .next t) (stopped : t.runState ≠ .running) :
    t = { s with runState := t.runState, devices := t.devices } := by
  have fetched {r : Except DecodeError Instr} {s' : State} (hf : fetch s = (r, s')) :
      ∃ ds, s' = { s with devices := ds } := ⟨_, by simpa [hf] using fetch_state s⟩
  obtain ⟨running, ⟨i, s', hf, _, he⟩ | ⟨s', hf, rfl⟩ | ⟨op, s', hf, rfl⟩⟩ := step_cases h
  · obtain ⟨ds, rfl⟩ := fetched hf
    exact exec_stop_state (s := { s with devices := ds }) running he stopped
  · obtain ⟨ds, rfl⟩ := fetched hf
    split <;> rfl
  · obtain ⟨ds, rfl⟩ := fetched hf
    rfl

/-- Settles O9: the devices a stop leaves are those that O10 gives for every step. -/
theorem stopsArePrecise : Obligations.StopsArePrecise := by
  intro s t h stopped
  obtain ⟨_, devices, _⟩ := accessesAccountForStep s t h
  rw [← devices]
  exact step_stop_state h stopped

/-! ### The character sink -/

/-- A bus write to a sink whose write ordinal does not fail emits the byte and stores it. -/
theorem busWrite_of_charOut {s : State} {k : Nat} {out : List Byte} {n : Nat} (v : Byte)
    (h : s.deviceAt Config.sinkRange.first = some (k, .charOut out n)) (unlisted : n ∉ s.sinkFails) :
    busWrite s Config.sinkRange.first v =
      .stored ((s.setDevice k (.charOut (out ++ [v]) (n + 1))).store Config.sinkRange.first v) :=
  busWrite_of_done h (handled := true) (by simp [Device.write, unlisted])

/-- Settles O42: the hooks as they stand, and the bus on an address that the sink has. -/
theorem charOutRule : Obligations.CharOutRule := by
  refine ⟨rfl, fun s k out n v h => ⟨?_, busWrite_of_charOut v h⟩,
    fun out n => ⟨rfl, Device.read_charOut out n, fun _ _ _ => rfl⟩⟩
  obtain ⟨_, bySink, _⟩ := busReadRule s 0xC000#16
  exact bySink k out n h

/-! ### A word placed at `pc` -/

/-- Three bytes copied to any address, over the end of the address space too, read back. -/
theorem Memory.read_load_three {m : Memory} (wf : m.wf = true) (a : Address) (b0 b1 b2 : Byte) :
    (m.load a [b0, b1, b2]).read a = b0 ∧ (m.load a [b0, b1, b2]).read (a + 1#16) = b1 ∧
      (m.load a [b0, b1, b2]).read (a + 2#16) = b2 := by
  have third : a + 1#16 + 1#16 = a + 2#16 := BitVec.add_assoc a 1#16 1#16
  have cells (b : Address) : (m.load a [b0, b1, b2]).read b =
      if b = a + 2#16 then b2 else if b = a + 1#16 then b1 else if b = a then b0 else m.read b := by
    have wf1 := Memory.write_wf wf a b0
    simp only [Memory.load, third, Memory.read_write (Memory.write_wf wf1 _ _), Memory.read_write wf1,
      Memory.read_write wf]
  have apart : a ≠ a + 1#16 ∧ a ≠ a + 2#16 ∧ a + 1#16 ≠ a + 2#16 := by bv_omega
  obtain ⟨first_second, first_third, second_third⟩ := apart
  simp only [cells, first_second, first_third, second_third, if_true, if_false, and_self]

/-- A word of the table that the decoder reads has three bytes that decode. -/
theorem decode_of_decodeTableWord {nbits w : Nat} {i : Instr} (h : decodeTableWord nbits w = some i) :
    ∃ b0 b1 b2, tableBytes nbits w = [b0, b1, b2] ∧ decode b0 b1 b2 = .ok i := by
  refine ⟨_, _, _, rfl, ?_⟩
  unfold decodeTableWord at h
  split at h
  case h_1 j decoded =>
    cases h
    exact decoded
  case h_2 => cases h

/-- Settles O6: the three bytes read back, and the fetch decodes them, since placing them changes no device. -/
theorem placedWordRunsNext : Obligations.PlacedWordRunsNext := by
  intro s nbits w i running wf h0 h1 h2 decoded
  refine ⟨?_, rfl⟩
  obtain ⟨b0, b1, b2, bytes, decodes⟩ := decode_of_decodeTableWord decoded
  have placed : s.withFetchWord nbits w = placeAtPc s [b0, b1, b2] := by rw [← bytes]; rfl
  obtain ⟨first, second, third⟩ := Memory.read_load_three wf s.pc b0 b1 b2
  rw [placed]
  refine step_of_fetch_same (s := placeAtPc s [b0, b1, b2]) running ?_
  rw [fetch_of_unclaimed (s := placeAtPc s [b0, b1, b2]) h0 h1 h2, ← decodes]
  exact congrArg (·, _) (congr (congr (congrArg decode first) second) third)

end Sys2Proof.Machine
end
